-- ==== Sys2Proof/Word.lean ====
section
/-! DEFINITION. The data types of 00_scope.md rule R9 and the answer type of 42_output_driver.md rule R87. -/

namespace Sys2Proof

/-- An 8-bit value (R9 `Char`; one cell of `SEG_ROM`, R25). -/
abbrev Byte := BitVec 8

/-- A 16-bit request word `q[15:0]` (R44). -/
abbrev Word := BitVec 16

/-- R9, R39: a 4-bit symbol; exactly 16 values, so no out-of-range symbol can be built. -/
abbrev Symbol := BitVec 4

/-- R9, R40: a segment mask, bit i lights segment i of [A, B, C, D, E, F, G, DP]. -/
abbrev Mask := BitVec 8

/-- R9, R41: a line vector `lv[N_LINES-1:0]`, bit j the level of line j. `N_LINES` is at most 8 (R82); the bits at and
above `N_LINES` name no line and are 0 in every vector the core produces (DESIGN CHOICE, assumption 9; safe). -/
abbrev Lines := BitVec 8

/-- R9 `BusErr`: a bus error code, a number below `2 ^ BUS_ERR_W`; nothing adds, shifts or masks it
(DESIGN CHOICE, assumption 9; safe). -/
abbrev BusErr := Nat

/-- R87: the bus agent's answer to an APPLY. -/
inductive BusAnswer where
  | ok
  | err (e : BusErr)
  deriving DecidableEq, Repr

end Sys2Proof
end

