-- ==== Sys2Proof/Config.lean ====
section
/-! DEFINITION. The implementation parameters of 00_scope.md rule R5 and the two free values of the model. -/

namespace Sys2Proof

/-- The five OPEN parameters of R5. They are fixed at construction (R6): a state carries the configuration it was
constructed with, no step writes it, and a statement about every state is a statement about every configuration
(DESIGN CHOICE, assumption 8; safe). -/
structure Config where
  /-- `N_LINES`: how many lines are wired, 1 to 8. -/
  nLines     : Nat
  /-- `LINE_MAP`, as the list `[LINE_MAP(0), .., LINE_MAP(N_LINES-1)]`. -/
  lineMap    : List Nat
  /-- `STRICT`: true is strict mode, false is compatibility mode. -/
  strict     : Bool
  /-- `INIT_SYMBOL`. -/
  initSymbol : Option Symbol
  /-- `BUS_ERR_W`: the width of the bus error code. -/
  busErrW    : Nat
  deriving DecidableEq, Repr

/-- The configuration of `State.reset`. DESIGN CHOICE (assumption 1): the spec fixes no parameter. It is the
configuration that 95_test_vectors.md takes where a vector names none (`N_LINES = 8`, identity map, `BUS_ERR_W = 4`), in
compatibility mode, with `INIT_SYMBOL = none`, so that no bus answer has to be chosen for the reset. Unsafe for a claim that
starts at `State.reset`. -/
def Config.atReset : Config :=
  { nLines := 8, lineMap := [0, 1, 2, 3, 4, 5, 6, 7], strict := false, initSymbol := none, busErrW := 4 }

/-- FREE VALUE (assumption 2): what the bus agent does at its n-th unscripted draw; `none` is "no answer yet". R87 and D13:
any answer, any time, under no law. -/
opaque Config.freeAnswer : Nat → Option BusAnswer

/-- FREE VALUE (assumption 3): which requester is drawn at the n-th unscripted choice. R34, R114 and R116: the order is
not fixed. -/
opaque Config.freeTurn : Nat → Nat

end Sys2Proof
end

