-- ==== Sys2Proof/Syntax.lean ====
section
/-! DEFINITION. The instructions: the four rows of spec/opcode_table.json, as 30_encoding.md rule R50 decodes them. -/

namespace Sys2Proof

/-- R50: every request word is exactly one of these. Fields the core ignores (R47, R48) are no part of the instruction. -/
inductive Instr where
  /-- GET (R74): no operands. -/
  | get
  /-- SET (R70): `te` the token-empty flag, `ch` the code of the first token character (R46). -/
  | set (te : Bool) (ch : Byte)
  /-- RESERVED(0b10) (R49). -/
  | reserved10
  /-- RESERVED(0b11) (R49). -/
  | reserved11
  deriving DecidableEq, Repr

end Sys2Proof
end

