-- ==== Sys2Proof/WellFormed.lean ====
section
/-! DEFINITION. Which requests a requester may issue, and which configurations are configurations of this core. -/

namespace Sys2Proof

/-- R49: "A requester never issues one" of the two reserved operations; every GET and every SET is well formed. -/
def Instr.wf (i : Instr) : Bool :=
  match i with
  | .get => true
  | .set _ _ => true
  | .reserved10 => false
  | .reserved11 => false

/-- R82: `N_LINES` is in 1 to 8. -/
def Config.lineCountOk (cfg : Config) : Bool :=
  decide (1 ≤ cfg.nLines) && decide (cfg.nLines ≤ 8)

/-- R81: `LINE_MAP` is a bijection from {0 .. N_LINES-1} onto {0 .. N_LINES-1}: one entry per mask bit, each entry a line
that exists, no line twice. -/
def Config.lineMapOk (cfg : Config) : Bool :=
  decide (cfg.lineMap.length = cfg.nLines) && cfg.lineMap.all (fun j => decide (j < cfg.nLines)) &&
    decide cfg.lineMap.Nodup

/-- R5: the legal values of the parameters (`STRICT`, `INIT_SYMBOL` and `BUS_ERR_W` are legal by their types). -/
def Config.wf (cfg : Config) : Bool :=
  cfg.lineCountOk && cfg.lineMapOk

end Sys2Proof
end

