-- ==== Sys2Proof/Decode.lean ====
section
/-! DEFINITION. The request word of 30_encoding.md section 2: decoder, encoder and the opcode table's rows. -/

namespace Sys2Proof

/-- R44: `OP = q[15:14]`. -/
def opField (q : Word) : BitVec 2 := q.extractLsb' 14 2

/-- R44: `TE = q[13]`. -/
def teField (q : Word) : Bool := q.getLsbD 13

/-- R44: `CH = q[7:0]`. -/
def chField (q : Word) : Byte := q.extractLsb' 0 8

/-- R50: total on every 16-bit word. `OP` alone selects the operation (R45); `RSV` is never read (R48), and a GET reads
neither `TE` nor `CH` (R47). The reserved operations are decoded by name (R49). -/
def decode (q : Word) : Instr :=
  if opField q = 0b00#2 then .get
  else if opField q = 0b01#2 then .set (teField q) (chField q)
  else if opField q = 0b10#2 then .reserved10
  else .reserved11

/-- R44: the word with the given fields, `RSV` written 0 as R48 asks of a requester. -/
def requestWord (op : BitVec 2) (te : Bool) (ch : Byte) : Word :=
  op ++ BitVec.ofBool te ++ 0#5 ++ ch

/-- The canonical word of an instruction (R44; "canonical" in spec/opcode_table.json). A reserved operation has no
canonical word: it is given its row's match (DESIGN CHOICE, assumption 16; safe). -/
def encode (i : Instr) : Word :=
  match i with
  | .get => requestWord 0b00#2 false 0x00#8
  | .set te ch => requestWord 0b01#2 te ch
  | .reserved10 => requestWord 0b10#2 false 0x00#8
  | .reserved11 => requestWord 0b11#2 false 0x00#8

/-- One row of spec/opcode_table.json. -/
structure OpcodeRow where
  mnemonic : String
  mask     : Word
  pattern  : Word
  deriving DecidableEq, Repr

/-- The rows of spec/opcode_table.json, `mask` and `match` as the table has them. -/
def opcodeTable : List OpcodeRow :=
  [ { mnemonic := "GET", mask := 0xC000#16, pattern := 0x0000#16 },
    { mnemonic := "SET", mask := 0xC000#16, pattern := 0x4000#16 },
    { mnemonic := "RESERVED_10", mask := 0xC000#16, pattern := 0x8000#16 },
    { mnemonic := "RESERVED_11", mask := 0xC000#16, pattern := 0xC000#16 } ]

/-- A word matches a row: its bits under the row's mask are the row's pattern. -/
def OpcodeRow.matchesWord (r : OpcodeRow) (q : Word) : Bool :=
  (q &&& r.mask) == r.pattern

/-- The instruction's row in spec/opcode_table.json. -/
def Instr.mnemonic (i : Instr) : String :=
  match i with
  | .get => "GET"
  | .set _ _ => "SET"
  | .reserved10 => "RESERVED_10"
  | .reserved11 => "RESERVED_11"

/-- The 16-bit request word whose low `nbits` bits are those of `w` and whose other bits are 0 (R55: one length). -/
def tableWord (nbits w : Nat) : Word := BitVec.ofNat 16 (w % 2 ^ nbits)

/-- The instruction the decoder reads from an opcode-table word; no request is longer than 16 bits (R55). -/
def decodeTableWord (nbits w : Nat) : Option Instr :=
  if nbits ≤ 16 then some (decode (tableWord nbits w)) else none

end Sys2Proof
end

