-- ==== Sys2Proof/Machine/State.lean ====
section
/-! DEFINITION. The state of 10_state.md rule R14, the state of the agents around the core (00_scope.md rule R10), the
reasons a step can stop, and the state after reset (10_state.md rule R24). -/

namespace Sys2Proof.Machine

/-- R53: the error codes of the `ERR` field. -/
inductive ErrCode where
  | none
  | invalidSymbol
  | outOfRange
  | busError
  deriving DecidableEq, Repr

/-- R51: one response, field by field (`Response.word` gives the 8-bit word). -/
structure Response where
  ok    : Bool
  err   : ErrCode
  valid : Bool
  sym   : Symbol
  /-- The side field `BERR`, below `2 ^ BUS_ERR_W`. -/
  berr  : BusErr
  deriving DecidableEq, Repr

/-- R90: one entry of the APPLY log. -/
structure ApplyEntry where
  mask   : Mask
  lines  : Lines
  answer : BusAnswer
  deriving DecidableEq, Repr

/-- Which operation issued the APPLY that is outstanding: a SET, or the reset (R108). -/
inductive Origin where
  | set
  | reset
  deriving DecidableEq, Repr

/-- R21, R116: the hidden sequencer state of `CTRL`. `idle` is `busy = 0`. `applying o sym` is `busy = 1` with the register
that holds the pending symbol while its APPLY waits for the bus's answer (DEDUCED, assumption 7; safe). -/
inductive Ctrl where
  | idle
  | applying (o : Origin) (sym : Symbol)
  deriving DecidableEq, Repr

/-- `SEG_ROM` (R25): the cells that differ from what an unlisted address reads as, by rising address. Nothing writes the
ROM (R27), so a well-formed memory lists no cell (DESIGN CHOICE, assumption 10; safe). -/
abbrev Memory := List Host.Cell

/-- The whole machine between two steps. -/
structure State where
  /-- R5, R6: the parameters this instance was constructed with; no step writes them. -/
  cfg        : Config
  /-- R14 `disp_valid`. -/
  dispValid  : Bool
  /-- R14 `disp_sym`. -/
  dispSym    : Symbol
  /-- R14, R25 `SEG_ROM`. -/
  segRom     : Memory
  /-- R14, R21 `busy` and the pending-symbol register. -/
  ctrl       : Ctrl
  /-- R22 `L`: the line levels; `none` while no APPLY has succeeded since reset. While an APPLY is outstanding the levels are
  unspecified (93_implementation_defined.md row 9) and this field keeps what the last answered APPLY left (DESIGN CHOICE,
  assumption 17; unsafe for a claim that reads it in a busy state). -/
  lines      : Option Lines
  /-- R90: the APPLY log, oldest entry first. -/
  applyLog   : List ApplyEntry
  /-- R13, R52: the responses returned so far, oldest first, each with the requester it was returned to
  (DESIGN CHOICE, assumption 14; safe). -/
  responses  : List (Nat × Response)
  /-- R10, R34, D20: the requester agents; the k-th list is the request words requester k has still to issue, next first. -/
  requesters : List (List Word)
  /-- The requester whose request the core is performing, or performed last. -/
  serving    : Nat
  /-- R87: the bus agent's coming draws, next first; `none` is a draw on which the bus has not answered yet. -/
  answers    : List (Option BusAnswer)
  /-- R34: the coming choices of the requester to serve next, next first. -/
  turns      : List Nat
  /-- The MODEL's own counter: how many draws the two free values of `Config` have supplied. -/
  draws      : Nat
  deriving DecidableEq, Repr

/-- Why a step can fault. -/
inductive Fault where
  /-- R12, R62, R94: the OUT_OF_RANGE condition, raised by the range check and by the ROM read for an index of 16 or more.
  Safe: a 4-bit symbol never reaches it. -/
  | outOfRange
  deriving DecidableEq, Repr

/-- Why a step or a construction can be refused. -/
inductive Refusal where
  /-- Raised by `exec` for an instruction without a meaning; there is none. Safe. -/
  | notModelled (mnemonic : String)
  /-- R49: raised by the meanings of the two reserved operations, with the `OP` field. Safe: the spec has a model refuse
  the word. -/
  | reservedOperation (op : BitVec 2)
  /-- R82: raised by the construction when `N_LINES` is not in 1 to 8. Safe: such a core does not exist. -/
  | badLineCount
  /-- R81, 93_implementation_defined.md row 4: raised by the construction when `LINE_MAP` is no bijection. Safe. -/
  | badLineMap
  /-- R109, 93_implementation_defined.md row 18: raised by a reset of a live instance. Safe. -/
  | secondReset
  deriving DecidableEq, Repr

/-- The state of an instance right after reset with `INIT_SYMBOL = none` (R24, R106, R107). `disp_valid`, `busy`, `L`,
`SEG_ROM` and the empty log are the spec's; the configuration is assumption 1, `disp_sym` is assumption 4, and the agents'
fields (no request waiting, no scripted draw) are assumption 5, each a DESIGN CHOICE and unsafe. -/
def State.reset : State :=
  { cfg := Config.atReset, dispValid := false, dispSym := 0#4, segRom := [], ctrl := .idle, lines := none,
    applyLog := [], responses := [], requesters := [], serving := 0, answers := [], turns := [], draws := 0 }

end Sys2Proof.Machine
end

