-- ==== Sys2Proof/Machine/Flags.lean ====
section
/-! DEFINITION. The response's flag fields `OK`, `ERR`, `VALID` (30_encoding.md section 3) and the view of `busy`; the
core's one status flag is `disp_valid` (10_state.md rule R18). -/

namespace Sys2Proof.Machine

/-- R53: the two-bit codes. -/
def ErrCode.bits (e : ErrCode) : BitVec 2 :=
  match e with
  | .none => 0b00#2
  | .invalidSymbol => 0b01#2
  | .outOfRange => 0b10#2
  | .busError => 0b11#2

/-- R51, R52: the response word, `OK` in bit 7, `ERR` in bits 6:5, `VALID` in bit 4, `SYM` in bits 3:0. -/
def Response.word (r : Response) : BitVec 8 :=
  BitVec.ofBool r.ok ++ r.err.bits ++ BitVec.ofBool r.valid ++ r.sym

/-- R54: an operation that succeeded and reports symbol `s`. -/
def Response.success (s : Symbol) : Response :=
  { ok := true, err := .none, valid := true, sym := s, berr := 0 }

/-- R54, R76: GET in Uninitialized. -/
def Response.uninitialized : Response :=
  { ok := true, err := .none, valid := false, sym := 0#4, berr := 0 }

/-- R54, R93: a token rejected in strict mode. -/
def Response.invalidSymbol : Response :=
  { ok := false, err := .invalidSymbol, valid := false, sym := 0#4, berr := 0 }

/-- R54, R95: an APPLY answered `err(e)`. -/
def Response.busError (e : BusErr) : Response :=
  { ok := false, err := .busError, valid := false, sym := 0#4, berr := e }

/-- R74, R76: what GET reports of `DISP_STATE`. -/
def getResponse (dispValid : Bool) (dispSym : Symbol) : Response :=
  if dispValid then Response.success dispSym else Response.uninitialized

/-- R14, R21: the bit `busy`. -/
def State.busy (s : State) : Bool :=
  match s.ctrl with
  | .idle => false
  | .applying _ _ => true

/-- R15: `DISP_STATE` as the source has it, `none` for Uninitialized and `some s` for Displaying(s). -/
def State.displayed (s : State) : Option Symbol :=
  if s.dispValid then some s.dispSym else none

end Sys2Proof.Machine
end

