-- ==== Sys2Proof/Machine/Operands.lean ====
section
/-! DEFINITION. The operand forms: the token of a SET (41_display_engine.md section 1, 30_encoding.md rules R42, R43, R46). -/

namespace Sys2Proof.Machine

/-- PARSE (R64): the token's symbol, `none` for an unrecognized token. The codes are those of R42. -/
def parse (te : Bool) (ch : Byte) : Option Symbol :=
  if te then none
  else if 0x30#8 ≤ ch ∧ ch ≤ 0x39#8 then some ((ch - 0x30#8).extractLsb' 0 4)
  else if 0x41#8 ≤ ch ∧ ch ≤ 0x46#8 then some ((ch - 0x41#8 + 10#8).extractLsb' 0 4)
  else if 0x61#8 ≤ ch ∧ ch ≤ 0x66#8 then some ((ch - 0x61#8 + 10#8).extractLsb' 0 4)
  else none

/-- The symbol substituted for an unrecognized token in compatibility mode (R67). -/
def fallbackSymbol : Symbol := 8#4

/-- The symbol a SET goes on with: the parsed one; for an unrecognized token the substitute in compatibility mode (R67),
none in strict mode (R68). -/
def tokenSymbol (cfg : Config) (te : Bool) (ch : Byte) : Option Symbol :=
  match parse te ch with
  | some s => some s
  | none => if cfg.strict then none else some fallbackSymbol

/-- The defensive range check of R69, on a symbol's value. -/
def inRange (v : Nat) : Bool := decide (v ≤ 15)

/-- R43: the textual form of a symbol, one lower-case character. -/
def symbolChar (s : Symbol) : Byte :=
  if s ≤ 9#4 then s.setWidth 8 + 0x30#8 else s.setWidth 8 - 10#8 + 0x61#8

end Sys2Proof.Machine
end

