-- ==== Sys2Proof/Machine/Ops.lean ====
section
/-! DEFINITION. The named operations: the ROM read, DRIVE, the APPLY transaction, the response, the request port. The core
has no traps (60_exceptions.md rules R92, R99): there is no exception entry and no return; an error is a response. -/

namespace Sys2Proof.Machine

/-! ## SEG_ROM -/

/-- R58: the table, word s at index s. -/
def segRomTable : List Mask :=
  [0x3F#8, 0x06#8, 0x5B#8, 0x4F#8, 0x66#8, 0x6D#8, 0x7D#8, 0x07#8,
   0x7F#8, 0x6F#8, 0x77#8, 0x7C#8, 0x39#8, 0x5E#8, 0x79#8, 0x71#8]

/-- What an unlisted address reads as: the fixed contents of R58; there is no address 16 or higher (R26). -/
def Memory.unlisted (a : Nat) : Option Byte := segRomTable[a]?

/-- R27: the one memory is read-only, so no address may hold anything but its fixed word. -/
def Memory.writable (_a : Nat) : Bool := false

/-- The read of one word (R8 `ROM[s]`, R28); `none` is an address that does not exist. -/
def Memory.read (m : Memory) (a : Nat) : Option Byte :=
  match m.find? (fun c => c.1 == a) with
  | some c => some c.2
  | none => Memory.unlisted a

/-- Addresses strictly rising. -/
def Memory.rising : Memory → Bool
  | [] => true
  | [_] => true
  | c :: d :: m => decide (c.1 < d.1) && Memory.rising (d :: m)

/-- The canonical form: addresses strictly rising, no entry equal to what an unlisted address reads as, and only addresses
that something could have written. -/
def Memory.wf (m : Memory) : Bool :=
  Memory.rising m && m.all (fun c => Memory.writable c.1 && Memory.unlisted c.1 != some c.2)

/-- ENCODE (R59) of the symbol value `v`; R62 gives it no meaning for a value of 16 or more. -/
def encodeMask (m : Memory) (v : Nat) : Option Mask := Memory.read m v

/-! ## DRIVE -/

/-- `LINE_MAP(i)` (R81). -/
def lineOf (cfg : Config) (i : Nat) : Option Nat := cfg.lineMap[i]?

/-- `lv[j] <- b`. -/
def setLine (lv : Lines) (j : Nat) (b : Bool) : Lines :=
  if b then lv ||| (1#8 <<< j) else lv &&& ~~~(1#8 <<< j)

/-- R80, the body of the loop: `lv[LINE_MAP(i)] <- m[i]`. -/
def routeBit (cfg : Config) (m : Mask) (lv : Lines) (i : Nat) : Lines :=
  match lineOf cfg i with
  | some j => setLine lv j (m.getLsbD i)
  | none => lv

/-- DRIVE (R80): mask bit i drives line `LINE_MAP(i)` for i below `N_LINES`; the other mask bits are not used. -/
def drive (cfg : Config) (m : Mask) : Lines :=
  (List.range cfg.nLines).foldl (routeBit cfg m) 0#8

/-! ## Writing the state -/

/-- R52 `respond`: the requester being served receives `r`. -/
def State.respond (r : Response) (s : State) : State :=
  { s with responses := s.responses ++ [(s.serving, r)] }

/-- R70: `disp_valid <- 1; disp_sym <- sym`, the 5 bits of `DISP_STATE` in one step (R31). -/
def State.display (sym : Symbol) (s : State) : State :=
  { s with dispValid := true, dispSym := sym }

/-- R90: one entry more in the APPLY log. -/
def State.logApply (e : ApplyEntry) (s : State) : State :=
  { s with applyLog := s.applyLog ++ [e] }

/-- R88: `L <- some lv`. -/
def State.setLines (lv : Lines) (s : State) : State :=
  { s with lines := some lv }

/-- R21: the sequencer state. -/
def State.setCtrl (c : Ctrl) (s : State) : State :=
  { s with ctrl := c }

/-! ## APPLY -/

/-- R9, R87: the bus carries `BUS_ERR_W` bits of an error code. -/
def answerOfWidth (w : Nat) (a : BusAnswer) : BusAnswer :=
  match a with
  | .ok => .ok
  | .err e => .err (e % 2 ^ w)

/-- R87: the bus agent's draw for the APPLY at hand: the next scripted draw, or a free value where the script has ended.
`none`: the bus has not answered. -/
def State.busDraw (s : State) : Option BusAnswer :=
  (match s.answers with
   | a :: _ => a
   | [] => Config.freeAnswer s.draws).map (answerOfWidth s.cfg.busErrW)

/-- The bus agent's draw is used up. -/
def State.afterDraw (s : State) : State :=
  { s with answers := s.answers.tail, draws := if s.answers.isEmpty then s.draws + 1 else s.draws }

/-- R88: the lines after an answer: all of them on `ok`, none of them on `err(e)`. -/
def State.applied (a : BusAnswer) (lv : Lines) (s : State) : State :=
  match a with
  | .ok => s.setLines lv
  | .err _ => s

/-- BusApply (R87): draw the bus's answer, record it (R90), set the lines on `ok` (R88). Without an answer nothing is
recorded and `L` keeps its value; the spec leaves the levels during an APPLY open (93_implementation_defined.md row 9), and
`State.observation` shows none of them (DESIGN CHOICE, assumption 17; unsafe for a claim that reads `L` in a busy state). -/
def busApply (m : Mask) (lv : Lines) (s : State) : Option BusAnswer × State :=
  match s.busDraw with
  | none => (none, s.afterDraw)
  | some a => (some a, (s.afterDraw.logApply { mask := m, lines := lv, answer := a }).applied a lv)

/-- The operation that issued the APPLY ends: `busy <- 0`, and a SET responds (R70); the reset responds to nobody (R108). -/
def State.finish (o : Origin) (r : Response) (s : State) : State :=
  match o with
  | .set => (s.setCtrl .idle).respond r
  | .reset => s.setCtrl .idle

/-- R70 and R106 from `m <- ROM[s]` on: DRIVE, APPLY, and on `ok` the state. While the bus has not answered, the symbol
stays pending with `busy = 1` (R21, R116; 93_implementation_defined.md row 15; DEDUCED, assumption 7; safe). -/
def showSymbol (o : Origin) (sym : Symbol) (m : Mask) (s : State) : State :=
  match busApply m (drive s.cfg m) s with
  | (none, s') => s'.setCtrl (.applying o sym)
  | (some .ok, s') => (s'.display sym).finish o (Response.success sym)
  | (some (.err e), s') => s'.finish o (Response.busError e)

/-- R69, R59, R87: the range check, ENCODE, and the APPLY of the mask, for a SET and for the reset. Both out-of-range
conditions are the OUT_OF_RANGE fault (R62, R94; DEDUCED, assumption 11; safe). -/
def applySymbol (o : Origin) (sym : Symbol) (s : State) : Host.Outcome State Fault Refusal :=
  if inRange sym.toNat then
    match encodeMask s.segRom sym.toNat with
    | some m => .next (showSymbol o sym m s)
    | none => .fault .outOfRange
  else .fault .outOfRange

/-! ## The request port -/

/-- The next request word of requester k, if it has one to issue. -/
def waitingWord (requesters : List (List Word)) (k : Nat) : Option Word :=
  match requesters[k]? with
  | some (w :: _) => some w
  | _ => none

/-- The first requester, counting from `k`, that has a request to issue. -/
def firstWaiting : List (List Word) → Nat → Option (Nat × Word)
  | [], _ => none
  | [] :: ps, k => firstWaiting ps (k + 1)
  | (w :: _) :: _, k => some (k, w)

/-- R34: the requester drawn to be served next: the next scripted choice, or a free value where the script has ended. -/
def State.turn (s : State) : Nat :=
  match s.turns with
  | k :: _ => k
  | [] => Config.freeTurn s.draws

/-- R112, R116: the request the core takes up next: that of the requester drawn if it has one, else that of the first
requester that has one (DESIGN CHOICE, assumption 3; safe); `none` when no request is waiting. -/
def State.nextRequest (s : State) : Option (Nat × Word) :=
  match waitingWord s.requesters s.turn with
  | some w => some (s.turn, w)
  | none => firstWaiting s.requesters 0

/-- R112: requester k's request is taken up: it leaves the port, and the choice is used up. -/
def State.accept (k : Nat) (s : State) : State :=
  { s with
    requesters := s.requesters.modify k List.tail
    serving := k
    turns := s.turns.tail
    draws := if s.turns.isEmpty then s.draws + 1 else s.draws }

/-- Requester 0 has the word `q` to issue before anything else. -/
def issueFirst (q : Word) : List (List Word) → List (List Word)
  | [] => [[q]]
  | p :: ps => (q :: p) :: ps

/-- Requester k has the word `q` to issue after everything it has already. -/
def issueLast (q : Word) : Nat → List (List Word) → List (List Word)
  | 0, [] => [[q]]
  | 0, p :: ps => (p ++ [q]) :: ps
  | k + 1, [] => [] :: issueLast q k []
  | k + 1, p :: ps => p :: issueLast q k ps

end Sys2Proof.Machine
end

