-- ==== Sys2Proof/Machine/DisplayEngine.lean ====
section
/-! DEFINITION. The two requests of the display engine, GET and SET (41_display_engine.md). -/

namespace Sys2Proof.Machine

/-- GET (R74): report `DISP_STATE`; no APPLY, no write of the core's state. -/
def execGet (s : State) : Host.Outcome State Fault Refusal :=
  .next (s.respond (getResponse s.dispValid s.dispSym))

/-- SET (R70): a token rejected in strict mode is answered INVALID_SYMBOL and nothing else happens (R68, R96); otherwise
the symbol is range-checked, encoded and applied. -/
def execSet (te : Bool) (ch : Byte) (s : State) : Host.Outcome State Fault Refusal :=
  match tokenSymbol s.cfg te ch with
  | none => .next (s.respond Response.invalidSymbol)
  | some sym => applySymbol .set sym s

end Sys2Proof.Machine
end

