-- ==== Sys2Proof/Machine/Reserved.lean ====
section
/-! DEFINITION. The two reserved operations (30_encoding.md rule R49): a model refuses the word. -/

namespace Sys2Proof.Machine

/-- R49: `OP = 0b10` names no operation; "a model refuses such a word". -/
def execReserved10 (_s : State) : Host.Outcome State Fault Refusal :=
  .refused (.reservedOperation 0b10#2)

/-- R49: `OP = 0b11` names no operation; "a model refuses such a word". -/
def execReserved11 (_s : State) : Host.Outcome State Fault Refusal :=
  .refused (.reservedOperation 0b11#2)

end Sys2Proof.Machine
end

