-- ==== Sys2Proof/Machine/Step.lean ====
section
/-! DEFINITION. One step of the machine (00_scope.md rules R11 and R12; 70_reset_and_hazards.md rule R116). -/

namespace Sys2Proof.Machine

/-- While an APPLY waits for the bus, only the bus can move (R112, R116). Otherwise the core takes up the next request and
performs it in one step (R11); with no request waiting it is idle with its state held (R105). -/
def step (s : State) : Host.Outcome State Fault Refusal :=
  match s.ctrl with
  | .applying o sym => applySymbol o sym s
  | .idle =>
    match s.nextRequest with
    | none => .next s
    | some (k, q) => exec (decode q) (s.accept k)

/-- Make `step` perform exactly the request word given: the core is idle, requester 0 has the word to issue before anything
else, and the next choice is requester 0 (DESIGN CHOICE, assumption 6; unsafe on a busy core). -/
def State.withFetchWord (s : State) (nbits w : Nat) : State :=
  { s with
    ctrl := .idle
    requesters := issueFirst (tableWord nbits w) s.requesters
    turns := 0 :: s.turns }

end Sys2Proof.Machine
end

