-- ==== Sys2Proof/Machine/HostSurface.lean ====
section
/-! DEFINITION. The host's surface (41_display_engine.md section 5) and the assembler notation (30_encoding.md section 4). -/

namespace Sys2Proof.Machine

/-- R78: the characters of the host's "read current symbol", from the response of a GET: the textual form of the symbol when
`VALID = 1`, none when `VALID = 0`. Its length is the list's. -/
def Response.text (r : Response) : List Byte :=
  if r.valid then [symbolChar r.sym] else []

/-- R78: the host read of a state, the textual form of `get()`. -/
def hostRead (s : State) : List Byte :=
  (getResponse s.dispValid s.dispSym).text

/-- R46, R79: the one SET request word by which the host presents a token: its first character, or the empty token;
characters after the first are not examined (R66). -/
def tokenWord (token : List Byte) : Word :=
  match token with
  | [] => encode (.set true 0x00#8)
  | c :: _ => encode (.set false c)

/-- A requester issues a request: it waits at the port until the core takes it up (R112). -/
def State.issue (k : Nat) (q : Word) (s : State) : State :=
  { s with requesters := issueLast q k s.requesters }

/-- R79: the host's "write new symbol", as requester k. -/
def hostWrite (k : Nat) (token : List Byte) (s : State) : State :=
  s.issue k (tokenWord token)

/-- The request words requester k has still to issue, next first (D20). -/
def State.requestsOf (k : Nat) (s : State) : List Word :=
  s.requesters[k]?.getD []

/-- The responses requester k has received, in order (R13, R52). -/
def State.responsesTo (k : Nat) (s : State) : List Response :=
  (s.responses.filter (fun p => p.1 == k)).map Prod.snd

/-- R56, R57: one line of the assembler notation (DESIGN CHOICE, assumption 15; safe). -/
inductive AsmLine where
  /-- `GET` -/
  | get
  /-- `SET 'c'`, by the code of c, and `SET 0xNN` -/
  | set (code : Byte)
  /-- `SET ''` -/
  | setEmpty
  /-- `RESET`: the host's reset, not a request word -/
  | reset
  /-- `SHOW n`: the pseudo-instruction -/
  | showSymbol (n : Symbol)
  deriving DecidableEq, Repr

/-- R56, R57: the word of a line, as the table of R56 gives it; `SHOW n` is `SET 'c'` for the textual form c of symbol n. -/
def AsmLine.word (l : AsmLine) : Option Word :=
  match l with
  | .get => some 0x0000#16
  | .set code => some (0x4000#16 + code.setWidth 16)
  | .setEmpty => some 0x6000#16
  | .reset => none
  | .showSymbol n => some (0x4000#16 + (symbolChar n).setWidth 16)

end Sys2Proof.Machine
end

