-- ==== Sys2Proof/Machine/Reset.lean ====
section
/-! DEFINITION. Reset, which is the construction of an instance (70_reset_and_hazards.md section 1). -/

namespace Sys2Proof.Machine

/-- The first three writes of R106, before the reset-time APPLY: `busy` and `disp_valid` are 0, the log is empty, `L` is the
host's. `leftover` is what `disp_sym` happens to hold (R16: unspecified); the other arguments are the agents around the
core. `SEG_ROM` holds its fixed words (R109). -/
def blankInstance (cfg : Config) (leftover : Symbol) (requesters : List (List Word))
    (answers : List (Option BusAnswer)) (turns : List Nat) (draws : Nat) : State :=
  { cfg := cfg, dispValid := false, dispSym := leftover, segRom := [], ctrl := .idle, lines := none,
    applyLog := [], responses := [], requesters := requesters, serving := 0, answers := answers,
    turns := turns, draws := draws }

/-- The rest of R106: with `INIT_SYMBOL = some s` one APPLY of `DRIVE(ROM[s])` (R108), which keeps `busy = 1` while the bus
has not answered (R116); with `INIT_SYMBOL = none` nothing (R107). -/
def resetApply (s : State) : Host.Outcome State Fault Refusal :=
  match s.cfg.initSymbol with
  | none => .next s
  | some sym => applySymbol .reset sym s

/-- RESET (R106): construct an instance. A line count or a line map that is no configuration of this core is refused (R82,
R81; 93_implementation_defined.md rows 3 and 4). -/
def construct (cfg : Config) (leftover : Symbol) (requesters : List (List Word))
    (answers : List (Option BusAnswer)) (turns : List Nat) (draws : Nat) : Host.Outcome State Fault Refusal :=
  if cfg.lineCountOk then
    if cfg.lineMapOk then resetApply (blankInstance cfg leftover requesters answers turns draws)
    else .refused .badLineMap
  else .refused .badLineCount

/-- R109: "The host issues reset once, at construction"; a reset of a live instance is refused
(93_implementation_defined.md row 18; DEDUCED, assumption 13; safe). -/
def resetAgain (_s : State) : Host.Outcome State Fault Refusal :=
  .refused .secondReset

end Sys2Proof.Machine
end

