-- ==== Sys2Proof/Safety.lean ====
section
/-! DEFINITION. The terms claims are stated in: the observation, the consistency invariant, the state machine of the
engine (41_display_engine.md rule R77) as a machine of its own, and what an outcome says. -/

namespace Sys2Proof.Machine

/-- R13: what a claim may read: the responses, the APPLY transactions, the line levels (`none`: unknown). -/
structure Observation where
  responses : List (Nat × Response)
  applyLog  : List ApplyEntry
  lines     : Option Lines
  deriving DecidableEq, Repr

/-- The observation of a state. The levels while an APPLY is outstanding are no part of it (93_implementation_defined.md row
9, R118). -/
def State.observation (s : State) : Observation :=
  { responses := s.responses, applyLog := s.applyLog, lines := if s.busy then none else s.lines }

/-- R54: the complete set of responses, less the unreachable OUT_OF_RANGE one, for an error code of width `w`. -/
def Response.legal (w : Nat) (r : Response) : Prop :=
  (∃ s, r = Response.success s) ∨ r = Response.uninitialized ∨ r = Response.invalidSymbol ∨
    ∃ e, e < 2 ^ w ∧ r = Response.busError e

/-- R90: an entry the core can log: the mask is a word of the ROM, the vector is what DRIVE makes of it, and an error code
has the bus's width. -/
def ApplyEntry.legal (cfg : Config) (e : ApplyEntry) : Prop :=
  e.mask ∈ segRomTable ∧ e.lines = drive cfg e.mask ∧ ∀ c, e.answer = .err c → c < 2 ^ cfg.busErrW

/-- R88, R90: the line vector of the last entry answered `ok`. -/
def lastApplied (log : List ApplyEntry) : Option Lines :=
  (log.reverse.find? (fun e => e.answer == .ok)).map ApplyEntry.lines

/-- R22, R23: `disp_valid` and `L` say the same of the last successful APPLY: the lines hold `DRIVE(ROM[disp_sym])` when
`disp_valid = 1`, and no APPLY has succeeded when `disp_valid = 0`. -/
def State.consistent (s : State) : Prop :=
  s.lines = s.displayed.bind (fun sym => (encodeMask s.segRom sym.toNat).map (drive s.cfg))

/-- The invariant of every instance: a legal configuration (R5), the fixed ROM (R27), the consistency invariant (R23), the
lines as the last successful APPLY left them (R88), and legal log entries and responses. What it says of the lines while an
APPLY is outstanding is the model's choice (assumption 17). -/
structure State.Inv (s : State) : Prop where
  cfg_wf          : s.cfg.wf = true
  rom_wf          : Memory.wf s.segRom = true
  consistent      : s.consistent
  lines_last      : s.lines = lastApplied s.applyLog
  log_legal       : ∀ e ∈ s.applyLog, e.legal s.cfg
  responses_legal : ∀ p ∈ s.responses, p.2.legal s.cfg.busErrW

/-- One operation of the sequential state machine, with the bus's answer a SET would draw. -/
inductive Operation where
  | get
  | set (te : Bool) (ch : Byte) (a : BusAnswer)
  deriving DecidableEq, Repr

/-- The operation a request is, given the bus's answer; a reserved word is none (R49). -/
def Operation.ofInstr (a : BusAnswer) (i : Instr) : Option Operation :=
  match i with
  | .get => some .get
  | .set te ch => some (.set te ch a)
  | .reserved10 => none
  | .reserved11 => none

/-- The table of R77, written from its rows: from the state before and the operation, the state after, the response word
and `BERR`. -/
def stateMachine (strict : Bool) (d : Option Symbol) (op : Operation) : Option Symbol × BitVec 8 × BusErr :=
  match op, d with
  | .get, none => (none, 0x80#8, 0)
  | .get, some o => (some o, 0x90#8 + o.setWidth 8, 0)
  | .set te ch a, d =>
    match parse te ch, strict, a with
    | none, true, _ => (d, 0x20#8, 0)
    | none, false, .ok => (some 8#4, 0x98#8, 0)
    | some s, _, .ok => (some s, 0x90#8 + s.setWidth 8, 0)
    | _, _, .err e => (d, 0x60#8, e)

/-- R33 (b): the operations performed one at a time; the last state, and the responses in order. -/
def performAll (strict : Bool) : Option Symbol → List Operation → Option Symbol × List (BitVec 8 × BusErr)
  | d, [] => (d, [])
  | d, op :: ops =>
    let r := stateMachine strict d op
    let rest := performAll strict r.1 ops
    (rest.1, r.2 :: rest.2)

/-- Whether the operation asks the bus: a SET does, except when strict mode rejects its token (R32, R68). -/
def Operation.applies (strict : Bool) (op : Operation) : Bool :=
  match op with
  | .get => false
  | .set te ch _ => !(strict && (parse te ch).isNone)

/-- The operations that requests are, each with its requester, given the answers drawn from the bus in order: an operation
that asks the bus takes the next answer, and the first one that has no answer yet ends the list (its answer in a rejected SET
is immaterial). A reserved word is no operation. -/
def operationsOf (strict : Bool) : List (Nat × Word) → List BusAnswer → List (Nat × Operation)
  | [], _ => []
  | (k, q) :: reqs, as =>
    match Operation.ofInstr (as.headD .ok) (decode q) with
    | none => operationsOf strict reqs as
    | some op =>
      if op.applies strict then
        if as.isEmpty then [] else (k, op) :: operationsOf strict reqs as.tail
      else (k, op) :: operationsOf strict reqs as

/-- The request that the step from `s` takes off the port, if it takes one: its requester and its word. -/
def State.takesUp (s : State) : List (Nat × Word) :=
  match s.ctrl with
  | .idle => s.nextRequest.toList
  | .applying _ _ => []

/-- The requests that leave the port in the first `n` steps from `s`, in order, each with its requester. -/
def requestsTaken : Nat → State → List (Nat × Word)
  | 0, _ => []
  | n + 1, s =>
    s.takesUp ++
      match step s with
      | .next t => requestsTaken n t
      | .fault _ => []
      | .refused _ => []

/-- The requests taken up and not yet answered: none when the core is idle, and while a SET is pending one SET word of the
requester being served that asks for the pending symbol. A pending reset is no request. -/
def State.outstanding (s : State) (reqs : List (Nat × Word)) : Prop :=
  match s.ctrl with
  | .idle => reqs = []
  | .applying .set sym =>
    ∃ q te ch, reqs = [(s.serving, q)] ∧ decode q = .set te ch ∧ tokenSymbol s.cfg te ch = some sym
  | .applying .reset _ => False

/-- How many responses requester k is owed: one while its SET is pending. -/
def State.owed (k : Nat) (s : State) : Nat :=
  match s.ctrl with
  | .idle => 0
  | .applying .set _ => if s.serving = k then 1 else 0
  | .applying .reset _ => 0

/-- A response as its requester sees it: the word and the side field (R51). -/
def Response.seen (r : Response) : BitVec 8 × BusErr := (r.word, r.berr)

/-- The state without what R16 calls unobservable: `disp_sym` while `disp_valid = 0`. -/
def State.forgetUnshown (s : State) : State :=
  if s.dispValid then s else { s with dispSym := 0#4 }

/-- The outcome with the next state, if there is one, changed by `f`. -/
def mapNext (f : State → State) (o : Host.Outcome State Fault Refusal) : Host.Outcome State Fault Refusal :=
  match o with
  | .next t => .next (f t)
  | .fault r => .fault r
  | .refused r => .refused r

end Sys2Proof.Machine
end

