-- ==== Sys2Proof/Certificates/Slice0/Obligations.lean ====
section
/-! DEFINITION. The statements for the provers. Rule numbers are those of spec/; "assumption n" is notes/assumptions/n.md. -/

open Sys2Proof Sys2Proof.Machine

/-! ## Request words -/

/-- R50 (with R45, R46, R47): the operation is selected by `q[15:14]` alone; every word is exactly one of the four. -/
def Obligations.DecodeByOperationField : Prop :=
  ∀ q : Word,
    (q.extractLsb' 14 2 = 0b00#2 → decode q = .get) ∧
    (q.extractLsb' 14 2 = 0b01#2 → decode q = .set (q.getLsbD 13) (q.extractLsb' 0 8)) ∧
    (q.extractLsb' 14 2 = 0b10#2 → decode q = .reserved10) ∧
    (q.extractLsb' 14 2 = 0b11#2 → decode q = .reserved11)

/-- Words of 95_test_vectors.md 2.1, one or more of each family. -/
def Obligations.SampleWordsDecode : Prop :=
  decode 0x0000#16 = .get ∧ decode 0x3FFF#16 = .get ∧
  decode 0x4033#16 = .set false 0x33#8 ∧ decode 0x5F33#16 = .set false 0x33#8 ∧
  decode 0x6033#16 = .set true 0x33#8 ∧ decode 0x40FF#16 = .set false 0xFF#8 ∧
  decode 0xBFFF#16 = .reserved10 ∧ decode 0xC000#16 = .reserved11

/-- No bit of an instruction is dropped by its encoding: every instruction, every operand value. -/
def Obligations.DecodeEncodeRoundTrip : Prop :=
  ∀ i : Instr, decode (encode i) = i

/-- The other direction: encoding a decoded word gives the word back, less the bits its operation ignores (R47, R48). For the
two reserved operations this is the MODEL'S choice (assumption 16): the spec gives them no canonical word, and encode gives
them their row's match. -/
def Obligations.EncodeDecodeKeepsMeaningBits : Prop :=
  ∀ q : Word, encode (decode q) =
    q &&& (match decode q with | .set _ _ => 0xE0FF#16 | .get | .reserved10 | .reserved11 => 0xC000#16)

/-- R48: a word behaves as the same word with `RSV = 0`, and a requester writes 0 there. -/
def Obligations.ReservedBitsIgnored : Prop :=
  (∀ q : Word, decode q = decode (q &&& 0xE0FF#16)) ∧ ∀ i : Instr, encode i &&& 0x1F00#16 = 0#16

/-- Every word matches exactly one row of spec/opcode_table.json, and is decoded to that row's instruction. -/
def Obligations.OpcodeTablePartition : Prop :=
  ∀ q : Word, (opcodeTable.filter (fun r => r.matchesWord q)).map OpcodeRow.mnemonic = [(decode q).mnemonic]

/-! ## SEG_ROM -/

/-- R58: word s of `SEG_ROM` for s = 0 to 15, as the table has it; there is no index 16 or higher. -/
def Obligations.RomHoldsTheTable : Prop :=
  ∀ m : Memory, Memory.wf m = true →
    (List.range 16).map (encodeMask m) =
      [some 0x3F#8, some 0x06#8, some 0x5B#8, some 0x4F#8, some 0x66#8, some 0x6D#8, some 0x7D#8, some 0x07#8,
       some 0x7F#8, some 0x6F#8, some 0x77#8, some 0x7C#8, some 0x39#8, some 0x5E#8, some 0x79#8, some 0x71#8] ∧
    ∀ a, 16 ≤ a → encodeMask m a = none

/-- R60: bit 7 of every ROM word is 0, and so is bit 7 of every mask the core has ever applied. -/
def Obligations.DecimalPointNeverLit : Prop :=
  (∀ (m : Memory) (s : Symbol) (w : Mask), Memory.wf m = true → encodeMask m s.toNat = some w → w.getLsbD 7 = false) ∧
  ∀ s : State, s.Inv → ∀ e ∈ s.applyLog, e.mask.getLsbD 7 = false

/-- R63: ENCODE is injective, and no symbol gives the blank mask. -/
def Obligations.EncodeIsInjective : Prop :=
  ∀ (m : Memory) (a b : Symbol), Memory.wf m = true →
    (encodeMask m a.toNat = encodeMask m b.toNat → a = b) ∧
    ∀ w, encodeMask m a.toNat = some w → w.getLsbD 7 = false ∧ w ≠ 0x00#8

/-- R27: no operation and no reset writes `SEG_ROM`: every address reads after a step as before it, and after the
construction as the fixed table says. -/
def Obligations.RomNeverWritten : Prop :=
  (∀ s t : State, step s = .next t → ∀ a, Memory.read t.segRom a = Memory.read s.segRom a) ∧
  ∀ cfg x rs as ts d t, construct cfg x rs as ts d = .next t → ∀ a, Memory.read t.segRom a = segRomTable[a]?

/-! ## Tokens -/

/-- R64, R66 and the codes of R42: exactly the 22 codes are recognized, with these symbols; the empty token never is. -/
def Obligations.ParseRecognizesTheCodes : Prop :=
  ∀ (ch : Byte) (s : Symbol),
    parse true ch = none ∧
    (parse false ch = some s ↔
      (0x30 ≤ ch.toNat ∧ ch.toNat ≤ 0x39 ∧ s.toNat = ch.toNat - 0x30) ∨
      (0x41 ≤ ch.toNat ∧ ch.toNat ≤ 0x46 ∧ s.toNat = ch.toNat - 0x41 + 10) ∨
      (0x61 ≤ ch.toNat ∧ ch.toNat ≤ 0x66 ∧ s.toNat = ch.toNat - 0x61 + 10))

/-- R65: `'A'` and `'a'` give symbol 10, and so on to `'F'` and `'f'` giving 15; with the empty flag both give none. -/
def Obligations.ParseIgnoresLetterCase : Prop :=
  ∀ ch : Byte, 0x41#8 ≤ ch → ch ≤ 0x46#8 →
    (∃ s : Symbol, parse false ch = some s ∧ parse false (ch + 0x20#8) = some s ∧ s.toNat = ch.toNat - 0x41 + 10) ∧
    ∀ te : Bool, parse te ch = parse te (ch + 0x20#8)

/-- R43: the textual form's code; and parsing it gives the symbol back. -/
def Obligations.TextualFormOfSymbol : Prop :=
  ∀ s : Symbol,
    (s.toNat ≤ 9 → (symbolChar s).toNat = 0x30 + s.toNat) ∧
    (10 ≤ s.toNat → (symbolChar s).toNat = 0x61 + (s.toNat - 10)) ∧
    parse false (symbolChar s) = some s

/-- R57: `SHOW n` is `SET 'c'` for the textual form c of n, and asks for symbol n in either mode. -/
def Obligations.ShowExpandsToSet : Prop :=
  ∀ n : Symbol,
    (AsmLine.showSymbol n).word = (AsmLine.set (symbolChar n)).word ∧
    (AsmLine.showSymbol n).word.map decode = some (.set false (symbolChar n)) ∧
    ∀ cfg, tokenSymbol cfg false (symbolChar n) = some n

/-! ## DRIVE -/

/-- R80: mask bit i drives line `LINE_MAP(i)` for i below `N_LINES`; no line at or above `N_LINES` is set; mask bits
`N_LINES` to 7 are not used. -/
def Obligations.DriveRoutesMaskBits : Prop :=
  ∀ cfg : Config, cfg.wf = true → ∀ m : Mask,
    (∀ i, i < cfg.nLines → ∃ j, lineOf cfg i = some j ∧ j < cfg.nLines ∧
      (drive cfg m).getLsbD j = m.getLsbD i) ∧
    (∀ j, cfg.nLines ≤ j → (drive cfg m).getLsbD j = false) ∧
    ∀ m' : Mask, (∀ i, i < cfg.nLines → m'.getLsbD i = m.getLsbD i) → drive cfg m' = drive cfg m

/-- R81: `LINE_MAP` is a bijection, so every line is driven by exactly one mask bit; and it never changes. -/
def Obligations.EveryLineHasOneMaskBit : Prop :=
  (∀ cfg : Config, cfg.wf = true → ∀ j, j < cfg.nLines → ∃! i, i < cfg.nLines ∧ lineOf cfg i = some j) ∧
  ∀ s t : State, step s = .next t → t.cfg.lineMap = s.cfg.lineMap

/-- R83, R84: with 8 lines and the identity map the vector is the mask and line 7 is driven 0; with 7 lines it is
`m[6:0]`, and no lit segment of a ROM word is lost. -/
def Obligations.DriveWithTheIdentityMap : Prop :=
  ∀ cfg : Config, ∀ m : Mask,
    (cfg.nLines = 8 → cfg.lineMap = [0, 1, 2, 3, 4, 5, 6, 7] →
      drive cfg m = m ∧ (m ∈ segRomTable → (drive cfg m).getLsbD 7 = false)) ∧
    (cfg.nLines = 7 → cfg.lineMap = [0, 1, 2, 3, 4, 5, 6] →
      drive cfg m = m &&& 0x7F#8 ∧ (m ∈ segRomTable → drive cfg m = m))

/-! ## Reset -/

/-- R107, and R24's first column: with `INIT_SYMBOL = none` the core comes out Uninitialized, idle, the lines the host's,
the log empty. -/
def Obligations.ConstructUninitialized : Prop :=
  ∀ cfg x rs as ts d, cfg.wf = true → cfg.initSymbol = none →
    ∃ t, construct cfg x rs as ts d = .next t ∧
      t.dispValid = false ∧ t.busy = false ∧ t.lines = none ∧ t.applyLog = [] ∧ t.responses = [] ∧
      (∀ a, Memory.read t.segRom a = segRomTable[a]?) ∧
      t.cfg = cfg ∧ t.requesters = rs ∧ t.answers = as

/-- R108, and R24's other columns: the reset performs one APPLY of `DRIVE(ROM[s])`; on `ok` the core comes out Displaying(s)
with the lines showing s, on `err(e)` Uninitialized with the lines unchanged, and no requester is told. -/
def Obligations.ConstructAppliesInitSymbol : Prop :=
  ∀ cfg x rs a as ts d sym m, cfg.wf = true → cfg.initSymbol = some sym → segRomTable[sym.toNat]? = some m →
    ∃ t, construct cfg x rs (some a :: as) ts d = .next t ∧
      t.busy = false ∧ t.responses = [] ∧ t.answers = as ∧ (∀ b, Memory.read t.segRom b = segRomTable[b]?) ∧
      (a = .ok → t.dispValid = true ∧ t.dispSym = sym ∧ t.lines = some (drive cfg m) ∧
        t.applyLog = [{ mask := m, lines := drive cfg m, answer := .ok }]) ∧
      ∀ e, a = .err e → t.dispValid = false ∧ t.lines = none ∧
        t.applyLog = [{ mask := m, lines := drive cfg m, answer := .err (e % 2 ^ cfg.busErrW) }]

/-- R116, 93_implementation_defined.md row 15: while the bus has not answered the reset-time APPLY, `busy = 1` and nothing
is shown; the answer then ends the reset as an answer at once would have. The waiting, and `L` keeping its value meanwhile, are
the model's (assumptions 7 and 17). -/
def Obligations.ConstructWaitsForTheBus : Prop :=
  ∀ cfg x rs a as ts d sym, cfg.wf = true → cfg.initSymbol = some sym →
    ∃ t, construct cfg x rs (none :: some a :: as) ts d = .next t ∧
      t.busy = true ∧ t.dispValid = false ∧ t.lines = none ∧ t.applyLog = [] ∧
      step t = construct cfg x rs (some a :: as) ts d

/-- R82: `N_LINES = 0` or more than 8 is refused; 93_implementation_defined.md row 4: so is a map that is no bijection. -/
def Obligations.ConstructRefusesBadLines : Prop :=
  ∀ cfg x rs as ts d,
    ((cfg.nLines = 0 ∨ 8 < cfg.nLines) → construct cfg x rs as ts d = .refused .badLineCount) ∧
    (1 ≤ cfg.nLines → cfg.nLines ≤ 8 → ¬ cfg.lineMap.Perm (List.range cfg.nLines) →
      construct cfg x rs as ts d = .refused .badLineMap)

/-- The model's State.reset is an instance constructed with `INIT_SYMBOL = none`: what R24 and R107 give, under the choices
of assumptions 1, 4 and 5. -/
def Obligations.ResetStateIsConstructed : Prop :=
  construct Config.atReset 0#4 [] [] [] 0 = .next State.reset ∧
  State.reset.displayed = none ∧ State.reset.busy = false ∧ State.reset.lines = none ∧ State.reset.applyLog = []

/-- R109 (derived): no step resets the instance. A step begins no reset-time APPLY; and it neither empties the log or the
responses nor clears `disp_valid`, as R106 would. -/
def Obligations.NoStepResetsTheCore : Prop :=
  ∀ s t : State, step s = .next t →
    (∀ sym, t.ctrl = .applying .reset sym → s.ctrl = .applying .reset sym) ∧
    (∃ entries, t.applyLog = s.applyLog ++ entries) ∧ (∃ rs, t.responses = s.responses ++ rs) ∧
    (s.dispValid = true → t.dispValid = true)

/-! ## GET -/

/-- R74, R76: GET always completes; it reports `disp_sym` with `VALID = 1` (word 0x90 + `disp_sym`) in Displaying and word
0x80 in Uninitialized, and changes nothing but the list of responses. -/
def Obligations.GetReportsDisplayState : Prop :=
  ∀ s : State, ∃ r : Response,
    exec .get s = .next { s with responses := s.responses ++ [(s.serving, r)] } ∧
    r.ok = true ∧ r.err = .none ∧ r.berr = 0 ∧
    (s.dispValid = true → r.valid = true ∧ r.sym = s.dispSym ∧ r.word = 0x90#8 + s.dispSym.setWidth 8) ∧
    (s.dispValid = false → r.valid = false ∧ r.sym = 0#4 ∧ r.word = 0x80#8)

/-- R75: a GET changes nothing but the list of responses; and after it, and after any run of steps that adds no APPLY
answered `ok` to the log, a GET gives the same response again. -/
def Obligations.GetMayBeRepeated : Prop :=
  ∀ (n : Nat) (s t u : State), exec .get s = .next t → Sys2Proof.core.run n t = .next u →
    (∀ e ∈ u.applyLog.drop s.applyLog.length, e.answer ≠ .ok) →
    ∃ v r, exec .get u = .next v ∧ t = { s with responses := s.responses ++ [(s.serving, r)] } ∧
      v = { u with responses := u.responses ++ [(u.serving, r)] }

/-! ## SET -/

/-- R70, its four ways to end. A token rejected in strict mode: only the response INVALID_SYMBOL is new. Otherwise s is the
parsed symbol, or 8 in compatibility mode, and m its ROM word. APPLY answered `ok`: the state, the lines, the log and the
response (word 0x90 + s) are these. APPLY answered `err(e)`: only the log and the response (word 0x60, `BERR = e`) are new.
Everything not named is as it was, but for the draw that is used up. -/
def Obligations.SetFollowsItsRule : Prop :=
  ∀ (s : State) (te : Bool) (ch : Byte),
    (parse te ch = none → s.cfg.strict = true →
      exec (.set te ch) s = .next { s with responses := s.responses ++ [(s.serving, Response.invalidSymbol)] }) ∧
    ∀ (sym : Symbol) (m : Mask),
      (parse te ch = some sym ∨ (parse te ch = none ∧ s.cfg.strict = false ∧ sym = 8#4)) →
      encodeMask s.segRom sym.toNat = some m →
      (s.busDraw = some .ok →
        exec (.set te ch) s = .next { s.afterDraw with
          ctrl := .idle
          dispValid := true
          dispSym := sym
          lines := some (drive s.cfg m)
          applyLog := s.applyLog ++ [{ mask := m, lines := drive s.cfg m, answer := .ok }]
          responses := s.responses ++ [(s.serving, Response.success sym)] } ∧
        (Response.success sym).word = 0x90#8 + sym.setWidth 8) ∧
      ∀ e, s.busDraw = some (.err e) →
        exec (.set te ch) s = .next { s.afterDraw with
          ctrl := .idle
          applyLog := s.applyLog ++ [{ mask := m, lines := drive s.cfg m, answer := .err e }]
          responses := s.responses ++ [(s.serving, Response.busError e)] } ∧
        (Response.busError e).word = 0x60#8 ∧ (Response.busError e).berr = e

/-- R68: in strict mode an unrecognized token ends SET with word 0x20: no ENCODE, no APPLY, no draw from the bus, no write
of `DISP_STATE` or of the lines. -/
def Obligations.StrictModeRejectsTheToken : Prop :=
  ∀ (s : State) (te : Bool) (ch : Byte), s.cfg.strict = true → parse te ch = none →
    exec (.set te ch) s = .next { s with responses := s.responses ++ [(s.serving, Response.invalidSymbol)] } ∧
    Response.invalidSymbol.word = 0x20#8 ∧ Response.invalidSymbol.err = .invalidSymbol ∧
    Response.invalidSymbol.berr = 0

/-- R67: in compatibility mode a SET of an unrecognized token is the SET of the token `'8'`, which asks for symbol 8. -/
def Obligations.CompatibilityModeShowsEight : Prop :=
  ∀ (s : State) (te : Bool) (ch : Byte), s.cfg.strict = false → parse te ch = none →
    exec (.set te ch) s = exec (.set false 0x38#8) s ∧ tokenSymbol s.cfg te ch = some 8#4

/-- R116, 93_implementation_defined.md row 15: while the bus has not answered, the SET's symbol stays pending with
`busy = 1`, and nothing else but the draw has changed. The waiting, and `L` keeping its value meanwhile, are the model's
(assumptions 7 and 17). -/
def Obligations.SetWaitsForTheBus : Prop :=
  ∀ (s : State) (te : Bool) (ch : Byte) (sym : Symbol),
    (parse te ch = some sym ∨ (parse te ch = none ∧ s.cfg.strict = false ∧ sym = 8#4)) → s.busDraw = none →
    exec (.set te ch) s = .next { s.afterDraw with ctrl := .applying .set sym }

/-- R69, R94 (derived): SET has a next state on every token in every state and configuration, and never reports OUT_OF_RANGE.
With a silent bus that next state is the SET still pending, which is the model's (assumption 7); the operation is complete
only at its response (R35), as SetFollowsItsRule states it. -/
def Obligations.SetAlwaysHasANextState : Prop :=
  ∀ (s : State) (te : Bool) (ch : Byte), ∃ t, exec (.set te ch) s = .next t ∧
    ∀ p ∈ t.responses, p ∈ s.responses ∨ p.2.err ≠ .outOfRange

/-- R87, D13 (derived): the bus's answer is an input. Whatever answer of the bus's width it gives, some script of the bus
agent gives it; a scripted draw is what the APPLY gets, and is used up. -/
def Obligations.EveryBusAnswerIsAdmitted : Prop :=
  ∀ (s : State) (a : Option BusAnswer) (as : List (Option BusAnswer)),
    (∀ e, a = some (.err e) → e < 2 ^ s.cfg.busErrW) →
    State.busDraw { s with answers := a :: as } = a ∧
    State.afterDraw { s with answers := a :: as } = { s with answers := as }

/-- R71: a successful SET of a token that parses to s puts `DRIVE(encode(s))` on the lines, the mask last observed by the bus
is `encode(s)`, and every GET after it returns s, until the log has another APPLY answered `ok`. -/
def Obligations.SetThenGetReturnsTheSymbol : Prop :=
  ∀ (n : Nat) (s : State) (te : Bool) (ch : Byte) (sym : Symbol) (m : Mask),
    parse te ch = some sym → encodeMask s.segRom sym.toNat = some m → s.busDraw = some .ok →
    ∃ t, exec (.set te ch) s = .next t ∧
      t.lines = some (drive s.cfg m) ∧ t.applyLog.getLast?.map ApplyEntry.mask = some m ∧
      ∀ u : State, Sys2Proof.core.run n t = .next u → (∀ e ∈ u.applyLog.drop t.applyLog.length, e.answer ≠ .ok) →
        exec .get u = .next { u with responses := u.responses ++ [(u.serving, Response.success sym)] }

/-- R72: after a SET whose APPLY failed the state of the core is as it was (`DISP_STATE`, ROM, sequencer idle) and so are the
lines; GET returns what it would have returned before the SET; and the APPLY is not retried: it is logged once, answered with
BUS_ERROR, and no longer outstanding. (A token that strict mode rejects asks the bus nothing; the first clauses hold of that
SET too.) -/
def Obligations.FailedSetLeavesTheSymbol : Prop :=
  ∀ (s t : State) (te : Bool) (ch : Byte) (e : BusErr), s.busDraw = some (.err e) → exec (.set te ch) s = .next t →
    t.dispValid = s.dispValid ∧ t.dispSym = s.dispSym ∧ t.segRom = s.segRom ∧ t.lines = s.lines ∧
    (s.ctrl = .idle → t.ctrl = .idle) ∧ t.applyLog.length ≤ s.applyLog.length + 1 ∧
    ((s.cfg.strict = false ∨ parse te ch ≠ none) →
      t.ctrl = .idle ∧ t.responses = s.responses ++ [(s.serving, Response.busError e)] ∧
      ∃ m, t.applyLog = s.applyLog ++ [{ mask := m, lines := drive s.cfg m, answer := .err e }]) ∧
    ∃ u v r, exec .get t = .next u ∧ exec .get s = .next v ∧
      u.responses = t.responses ++ [(t.serving, r)] ∧ v.responses = s.responses ++ [(s.serving, r)]

/-- R73: two SETs with the same token, each answered ok, give the same `DISP_STATE` and two APPLYs of the same mask and
vector; the second is not skipped. -/
def Obligations.RepeatedSetAppliesAgain : Prop :=
  ∀ (s t : State) (te : Bool) (ch : Byte),
    (s.cfg.strict = false ∨ parse te ch ≠ none) → s.busDraw = some .ok →
    exec (.set te ch) s = .next t → t.busDraw = some .ok →
    ∃ u e, exec (.set te ch) t = .next u ∧ u.dispValid = t.dispValid ∧ u.dispSym = t.dispSym ∧ u.lines = t.lines ∧
      t.applyLog = s.applyLog ++ [e] ∧ u.applyLog = s.applyLog ++ [e, e]

/-! ## Reserved operations -/

/-- R49: the words with `OP` 0b10 or 0b11 are no requests a requester issues and a model refuses them, in every state; every
other word is a request, and is not refused: it has a next state. -/
def Obligations.ReservedOperationsRefused : Prop :=
  ∀ (s : State) (q : Word),
    (q.getLsbD 15 = true → (decode q).wf = false ∧
      exec (decode q) s = .refused (.reservedOperation (q.extractLsb' 14 2))) ∧
    (q.getLsbD 15 = false → (decode q).wf = true ∧ ∃ t, exec (decode q) s = .next t)

/-! ## Frames and whole-machine rules -/

/-- The frame of GET and SET: neither touches the configuration, the ROM (any address), the port or the choices; each
adds at most one response, to the requester being served; SET adds at most one log entry; GET leaves all of the core's
state, the lines, the log and the bus's draws alone. -/
def Obligations.RequestFrame : Prop :=
  (∀ (i : Instr) (s t : State), exec i s = .next t →
    t.cfg = s.cfg ∧ t.segRom = s.segRom ∧ (∀ a, Memory.read t.segRom a = Memory.read s.segRom a) ∧
    t.requesters = s.requesters ∧ t.turns = s.turns ∧ t.serving = s.serving ∧
    (t.responses = s.responses ∨ ∃ r, t.responses = s.responses ++ [(s.serving, r)]) ∧
    (t.applyLog = s.applyLog ∨ ∃ e, t.applyLog = s.applyLog ++ [e])) ∧
  ∀ s t : State, exec .get s = .next t →
    t.dispValid = s.dispValid ∧ t.dispSym = s.dispSym ∧ t.ctrl = s.ctrl ∧ t.lines = s.lines ∧
    t.applyLog = s.applyLog ∧ t.answers = s.answers ∧ t.draws = s.draws

/-- R17 (derived): a step writes `DISP_STATE` only with an APPLY answered `ok`, which the log then ends with; the state then
names the symbol of that entry's mask. (That the lines keep their levels over a step that leaves an APPLY outstanding is the
model's choice, assumption 17.) -/
def Obligations.DisplayStateWrittenOnlyByApply : Prop :=
  ∀ s t : State, step s = .next t →
    (t.dispValid = s.dispValid ∧ t.dispSym = s.dispSym ∧ t.lines = s.lines) ∨
    ∃ e, t.applyLog = s.applyLog ++ [e] ∧ e.answer = .ok ∧ t.dispValid = true ∧
      encodeMask s.segRom t.dispSym.toNat = some e.mask ∧ e.lines = drive s.cfg e.mask ∧ t.lines = some e.lines

/-- R18 (derived): no step clears `disp_valid`. -/
def Obligations.DispValidNeverCleared : Prop :=
  ∀ (n : Nat) (s t : State), Sys2Proof.core.run n s = .next t → s.dispValid = true → t.dispValid = true

/-- R6: no parameter changes during the life of an instance. -/
def Obligations.ParametersNeverChange : Prop :=
  (∀ (n : Nat) (s t : State), Sys2Proof.core.run n s = .next t → t.cfg = s.cfg) ∧
  ∀ cfg x rs as ts d t, construct cfg x rs as ts d = .next t → t.cfg = cfg

/-- A step performs the decoded request: when the core is idle and the request taken up is the word q of requester k, the
step is `exec` of the instruction q decodes to, after the word has left requester k's list and the choice is used up. -/
def Obligations.StepRunsTheDecodedRequest : Prop :=
  ∀ (s : State) (k : Nat) (q : Word) (i : Instr),
    s.ctrl = .idle → s.nextRequest = some (k, q) → decode q = i →
    step s = exec i { s with
      requesters := s.requesters.modify k List.tail
      serving := k
      turns := s.turns.tail
      draws := if s.turns.isEmpty then s.draws + 1 else s.draws }

/-- The host's interface: the step after `withFetchWord` runs the instruction the word decodes to, as requester 0. -/
def Obligations.FetchWordRunsNext : Prop :=
  ∀ (s : State) (w : Nat), step (s.withFetchWord 16 w) =
    exec (decode (BitVec.ofNat 16 w)) { s with
      ctrl := .idle
      serving := 0
      requesters := if s.requesters = [] then [[]] else s.requesters }

/-- R12: a step ends in a next state, or in the refusal of a word whose `OP` is reserved; it never faults. -/
def Obligations.StepOutcomes : Prop :=
  ∀ s : State, (∃ t, step s = .next t) ∨
    ∃ k q, s.ctrl = .idle ∧ s.nextRequest = some (k, q) ∧ q.getLsbD 15 = true ∧
      step s = .refused (.reservedOperation (q.extractLsb' 14 2))

/-- R105 (derived): with no request waiting and no APPLY outstanding the core holds its state. -/
def Obligations.IdleCoreHoldsItsState : Prop :=
  ∀ s : State, s.ctrl = .idle → (∀ p ∈ s.requesters, p = []) → step s = .next s

/-- R114, R116 (derived): any requester with a request to issue may be served next; the request taken up is always one that
a requester has to issue; and while any has one, one is taken up. -/
def Obligations.AnyWaitingRequesterMayBeNext : Prop :=
  (∀ (s : State) (k : Nat) (q : Word) (qs : List Word) (ts : List Nat), s.requesters[k]? = some (q :: qs) →
    State.nextRequest { s with turns := k :: ts } = some (k, q)) ∧
  (∀ (s : State) (k : Nat) (q : Word), s.nextRequest = some (k, q) → ∃ qs, s.requesters[k]? = some (q :: qs)) ∧
  ∀ s : State, s.nextRequest = none → ∀ p ∈ s.requesters, p = []

/-- R112 (derived): while an APPLY is outstanding no request is taken up, lost or answered, but for the response of the SET
itself; and a step with the core idle takes at most one request, the first of one requester, who is then the one served and
gets the response, now or when the bus answers (assumption 7). -/
def Obligations.OneOperationAtATime : Prop :=
  (∀ (s t : State) (o : Origin) (sym : Symbol), s.ctrl = .applying o sym → step s = .next t →
    t.requesters = s.requesters ∧ t.turns = s.turns ∧ t.serving = s.serving ∧
    ((t.ctrl = s.ctrl ∧ t.responses = s.responses) ∨
      (t.ctrl = .idle ∧ (o = .reset → t.responses = s.responses) ∧
        (o = .set → ∃ r, t.responses = s.responses ++ [(s.serving, r)])))) ∧
  ∀ s t : State, s.ctrl = .idle → step s = .next t →
    (t = s ∧ s.nextRequest = none) ∨
    ∃ k q, s.nextRequest = some (k, q) ∧ t.requesters = s.requesters.modify k List.tail ∧ t.serving = k ∧
      ((t.ctrl = .idle ∧ ∃ r, t.responses = s.responses ++ [(k, r)]) ∨
        (∃ sym, t.ctrl = .applying .set sym ∧ t.responses = s.responses))

/-- R21, R116 (derived): a step ends with `busy = 1` only when the bus did not answer the APPLY of that step; where the bus
always answers, `busy = 0` between steps. -/
def Obligations.BusyOnlyWhileTheBusIsSilent : Prop :=
  ∀ s t : State, step s = .next t → t.busy = true →
    (s.busy = true ∧ s.busDraw = none) ∨
    (s.busy = false ∧ ∃ k q, s.nextRequest = some (k, q) ∧ (s.accept k).busDraw = none)

/-! ## Invariant and consistency -/

/-- Every step keeps the invariant of an instance (R5, R23, R27, R54, R88, R90). What it says of the lines in a busy state is
the model's choice (assumption 17). -/
def Obligations.StepKeepsTheInvariant : Prop :=
  ∀ s t : State, s.Inv → step s = .next t → t.Inv

/-- The invariant holds of the model's State.reset. -/
def Obligations.ResetMeetsTheInvariant : Prop :=
  State.reset.Inv

/-- The invariant holds of every instance that a construction gives, whatever the configuration and the bus's answer. (In a busy
state what it says of the lines is the model's choice, assumption 17.) -/
def Obligations.ConstructionMeetsTheInvariant : Prop :=
  ∀ cfg x rs as ts d t, construct cfg x rs as ts d = .next t → t.Inv

/-- R23, R33 (c) (derived): after every step of an instance, `disp_valid = 1` means the lines hold `DRIVE(ROM[disp_sym])`; and
a response the step gave with `VALID = 1` names the symbol the lines hold. The first clause covers busy states too, of which R23
says nothing: the levels kept while an APPLY is outstanding are the MODEL'S choice (assumption 17). No response is given then. -/
def Obligations.NoResponseDisagreesWithTheLines : Prop :=
  ∀ s t : State, s.Inv → step s = .next t →
    (t.dispValid = true → ∃ m, segRomTable[t.dispSym.toNat]? = some m ∧ t.lines = some (drive t.cfg m)) ∧
    ∀ k r, t.responses = s.responses ++ [(k, r)] → r.valid = true →
      ∃ m, segRomTable[r.sym.toNat]? = some m ∧ t.lines = some (drive t.cfg m)

/-! ## Responses -/

/-- R51, R54: the fields of every legal response lie in its word as the layout says; the words are those of the table. -/
def Obligations.ResponseWords : Prop :=
  (∀ r : Response, r.word.getLsbD 7 = r.ok ∧ r.word.extractLsb' 5 2 = r.err.bits ∧ r.word.getLsbD 4 = r.valid ∧
    r.word.extractLsb' 0 4 = r.sym) ∧
  (∀ (w : Nat) (r : Response), r.legal w →
    (r.ok = true ↔ r.err.bits = 0b00#2) ∧ (r.valid = false → r.sym = 0#4) ∧ (r.err ≠ .busError → r.berr = 0) ∧
    r.berr < 2 ^ w) ∧
  (∀ s : Symbol, (Response.success s).word = 0x90#8 + s.setWidth 8) ∧ Response.uninitialized.word = 0x80#8 ∧
  Response.invalidSymbol.word = 0x20#8 ∧ ∀ e, (Response.busError e).word = 0x60#8

/-- R78, R79 (derived): the host read is the textual form of what GET reports, one character or none; the host write adds
one SET word of the token's first character to the requester's list. -/
def Obligations.HostSurface : Prop :=
  (∀ s : State, (s.dispValid = true → hostRead s = [symbolChar s.dispSym]) ∧ (s.dispValid = false → hostRead s = [])) ∧
  (∀ c rest, decode (tokenWord (c :: rest)) = .set false c) ∧ decode (tokenWord []) = .set true 0x00#8 ∧
  ∀ (s : State) (k : Nat) (token : List Byte),
    (hostWrite k token s).requesters[k]? = some ((s.requesters[k]?).getD [] ++ [tokenWord token])

/-! ## Refinement -/

/-- R77: one step at the transaction level is one row of the engine's state machine: for the request taken up and the bus's
answer, the step completes, and the state after, the response word and `BERR` are the row's. -/
def Obligations.StepIsOneStateMachineTransition : Prop :=
  ∀ (s : State) (k : Nat) (q : Word) (a : BusAnswer) (op : Operation),
    s.ctrl = .idle → s.nextRequest = some (k, q) → (s.accept k).busDraw = some a →
    Operation.ofInstr a (decode q) = some op →
    ∃ t r, step s = .next t ∧ t.ctrl = .idle ∧ t.responses = s.responses ++ [(k, r)] ∧
      stateMachine s.cfg.strict s.displayed op = (t.displayed, r.seen)

/-- R33 (b), R34 (derived): over every run, whatever the order in which the requesters are served and however long the bus
waits. The requests are one still outstanding at the start, if any, and then those that left the port, in order; those of one
requester left its list in its order. The operations are these requests with the answers the log shows, in order, each answer
used by one of them; all are performed but one that is still outstanding at the end. Performed one at a time by the state
machine, they give the last `DISP_STATE` and the responses in order, and each response went to the requester of its request.
(Waiting is the model's, assumption 7; a reset outstanding at the start is left out, since its answer belongs to no request.) -/
def Obligations.RunsLinearize : Prop :=
  ∀ (n : Nat) (s t : State) (before : List (Nat × Word)),
    s.outstanding before → Sys2Proof.core.run n s = .next t →
    (∀ k, s.requestsOf k = ((requestsTaken n s).filter (fun p => p.1 == k)).map Prod.snd ++ t.requestsOf k) ∧
    ∃ (entries : List ApplyEntry) (rs : List (Nat × Response)) (ops : List (Nat × Operation)),
      t.applyLog = s.applyLog ++ entries ∧ t.responses = s.responses ++ rs ∧
      ops = operationsOf s.cfg.strict (before ++ requestsTaken n s) (entries.map ApplyEntry.answer) ∧
      ops.length + (if t.busy then 1 else 0) = (before ++ requestsTaken n s).length ∧
      entries.length = (ops.map Prod.snd).countP (Operation.applies s.cfg.strict) ∧
      performAll s.cfg.strict s.displayed (ops.map Prod.snd) = (t.displayed, rs.map (fun p => p.2.seen)) ∧
      rs.map Prod.fst = ops.map Prod.fst

/-- R52 (derived): over every run, each requester's list loses requests from its front, and gets one response for each of
them, but for the one that is still pending at the end (assumption 7). -/
def Obligations.EachRequestIsAnsweredOnce : Prop :=
  ∀ (n : Nat) (s t : State) (k : Nat), Sys2Proof.core.run n s = .next t →
    ∃ (taken : List Word) (answered : List Response),
      s.requestsOf k = taken ++ t.requestsOf k ∧ t.responsesTo k = s.responsesTo k ++ answered ∧
      taken.length + s.owed k = answered.length + t.owed k

/-- R116 (derived; the waiting steps are the model's, assumption 7): a bus that is silent for n draws only delays a SET: the
SET performed over n + 1 steps with `busy = 1` between them ends in exactly the state that the SET performed in one step ends
in. -/
def Obligations.SilentBusOnlyDelaysSet : Prop :=
  ∀ (n : Nat) (s : State) (k : Nat) (q : Word) (te : Bool) (ch : Byte) (a : BusAnswer) (as : List (Option BusAnswer)),
    s.ctrl = .idle → s.nextRequest = some (k, q) → decode q = .set te ch → tokenSymbol s.cfg te ch ≠ none →
    Sys2Proof.core.run (n + 1) { s with answers := List.replicate n none ++ some a :: as } =
      step { s with answers := some a :: as }

/-! ## What cannot be observed -/

/-- R16: the content of `disp_sym` while `disp_valid = 0` is never revealed: two states that differ only in it take steps
that differ at most in it while it stays unshown; and a GET reports `VALID = 0` and `SYM = 0`. -/
def Obligations.UnshownSymbolIsUnobservable : Prop :=
  ∀ (s : State) (x : Symbol), s.dispValid = false →
    mapNext State.forgetUnshown (step { s with dispSym := x }) = mapNext State.forgetUnshown (step s) ∧
    ∃ r, exec .get s = .next { s with responses := s.responses ++ [(s.serving, r)] } ∧ r.valid = false ∧ r.sym = 0#4

/-- R22 (derived): the core never reads the line levels: whatever the host left on the lines, a step has the same
outcome and the same next state, but for the levels themselves. -/
def Obligations.LineLevelsAreNeverRead : Prop :=
  ∀ (s : State) (l : Option Lines),
    mapNext (fun t => { t with lines := none }) (step { s with lines := l }) =
      mapNext (fun t => { t with lines := none }) (step s)
end

