-- ==== Sys2Proof/Laws/Decode.lean ====
section
/-! SUPPORT. The fields of a request word against the opcode table's mask and match, and the decoder's four cases. -/

namespace Sys2Proof

/-- A request word's `OP` field and what the opcode table's mask 0xC000 leaves of the word. -/
theorem opField_cases (q : Word) :
    (opField q = 0b00#2 ∧ q &&& 0xC000#16 = 0x0000#16) ∨ (opField q = 0b01#2 ∧ q &&& 0xC000#16 = 0x4000#16) ∨
    (opField q = 0b10#2 ∧ q &&& 0xC000#16 = 0x8000#16) ∨ (opField q = 0b11#2 ∧ q &&& 0xC000#16 = 0xC000#16) := by
  rcases h15 : q.getLsbD 15 <;> rcases h14 : q.getLsbD 14
  · refine .inl ⟨?_, ?_⟩ <;> (apply BitVec.eq_of_getLsbD_eq; intro i hi; interval_cases i <;> simp_all [opField])
  · refine .inr (.inl ⟨?_, ?_⟩) <;>
      (apply BitVec.eq_of_getLsbD_eq; intro i hi; interval_cases i <;> simp_all [opField])
  · refine .inr (.inr (.inl ⟨?_, ?_⟩)) <;>
      (apply BitVec.eq_of_getLsbD_eq; intro i hi; interval_cases i <;> simp_all [opField])
  · refine .inr (.inr (.inr ⟨?_, ?_⟩)) <;>
      (apply BitVec.eq_of_getLsbD_eq; intro i hi; interval_cases i <;> simp_all [opField])

theorem decode_of_op_get {q : Word} (h : opField q = 0b00#2) : decode q = .get := by simp [decode, h]

theorem decode_of_op_set {q : Word} (h : opField q = 0b01#2) : decode q = .set (teField q) (chField q) := by
  simp [decode, h]

theorem decode_of_op_reserved10 {q : Word} (h : opField q = 0b10#2) : decode q = .reserved10 := by simp [decode, h]

theorem decode_of_op_reserved11 {q : Word} (h : opField q = 0b11#2) : decode q = .reserved11 := by simp [decode, h]

end Sys2Proof
end

