-- ==== Sys2Proof/Laws/State.lean ====
section
/-! SUPPORT. One lemma per field per named update of the state (Machine/Ops.lean), so that no proof unfolds a record update. -/

namespace Sys2Proof.Machine.State

variable (s : State)

/-! ## respond -/

@[simp] theorem respond_cfg (r : Response) : (s.respond r).cfg = s.cfg := rfl
@[simp] theorem respond_dispValid (r : Response) : (s.respond r).dispValid = s.dispValid := rfl
@[simp] theorem respond_dispSym (r : Response) : (s.respond r).dispSym = s.dispSym := rfl
@[simp] theorem respond_segRom (r : Response) : (s.respond r).segRom = s.segRom := rfl
@[simp] theorem respond_ctrl (r : Response) : (s.respond r).ctrl = s.ctrl := rfl
@[simp] theorem respond_lines (r : Response) : (s.respond r).lines = s.lines := rfl
@[simp] theorem respond_applyLog (r : Response) : (s.respond r).applyLog = s.applyLog := rfl
@[simp] theorem respond_responses (r : Response) : (s.respond r).responses = s.responses ++ [(s.serving, r)] := rfl
@[simp] theorem respond_requesters (r : Response) : (s.respond r).requesters = s.requesters := rfl
@[simp] theorem respond_serving (r : Response) : (s.respond r).serving = s.serving := rfl
@[simp] theorem respond_answers (r : Response) : (s.respond r).answers = s.answers := rfl
@[simp] theorem respond_turns (r : Response) : (s.respond r).turns = s.turns := rfl
@[simp] theorem respond_draws (r : Response) : (s.respond r).draws = s.draws := rfl

/-! ## display -/

@[simp] theorem display_cfg (sym : Symbol) : (s.display sym).cfg = s.cfg := rfl
@[simp] theorem display_dispValid (sym : Symbol) : (s.display sym).dispValid = true := rfl
@[simp] theorem display_dispSym (sym : Symbol) : (s.display sym).dispSym = sym := rfl
@[simp] theorem display_segRom (sym : Symbol) : (s.display sym).segRom = s.segRom := rfl
@[simp] theorem display_ctrl (sym : Symbol) : (s.display sym).ctrl = s.ctrl := rfl
@[simp] theorem display_lines (sym : Symbol) : (s.display sym).lines = s.lines := rfl
@[simp] theorem display_applyLog (sym : Symbol) : (s.display sym).applyLog = s.applyLog := rfl
@[simp] theorem display_responses (sym : Symbol) : (s.display sym).responses = s.responses := rfl
@[simp] theorem display_requesters (sym : Symbol) : (s.display sym).requesters = s.requesters := rfl
@[simp] theorem display_serving (sym : Symbol) : (s.display sym).serving = s.serving := rfl
@[simp] theorem display_answers (sym : Symbol) : (s.display sym).answers = s.answers := rfl
@[simp] theorem display_turns (sym : Symbol) : (s.display sym).turns = s.turns := rfl
@[simp] theorem display_draws (sym : Symbol) : (s.display sym).draws = s.draws := rfl

/-! ## logApply -/

@[simp] theorem logApply_cfg (e : ApplyEntry) : (s.logApply e).cfg = s.cfg := rfl
@[simp] theorem logApply_dispValid (e : ApplyEntry) : (s.logApply e).dispValid = s.dispValid := rfl
@[simp] theorem logApply_dispSym (e : ApplyEntry) : (s.logApply e).dispSym = s.dispSym := rfl
@[simp] theorem logApply_segRom (e : ApplyEntry) : (s.logApply e).segRom = s.segRom := rfl
@[simp] theorem logApply_ctrl (e : ApplyEntry) : (s.logApply e).ctrl = s.ctrl := rfl
@[simp] theorem logApply_lines (e : ApplyEntry) : (s.logApply e).lines = s.lines := rfl
@[simp] theorem logApply_applyLog (e : ApplyEntry) : (s.logApply e).applyLog = s.applyLog ++ [e] := rfl
@[simp] theorem logApply_responses (e : ApplyEntry) : (s.logApply e).responses = s.responses := rfl
@[simp] theorem logApply_requesters (e : ApplyEntry) : (s.logApply e).requesters = s.requesters := rfl
@[simp] theorem logApply_serving (e : ApplyEntry) : (s.logApply e).serving = s.serving := rfl
@[simp] theorem logApply_answers (e : ApplyEntry) : (s.logApply e).answers = s.answers := rfl
@[simp] theorem logApply_turns (e : ApplyEntry) : (s.logApply e).turns = s.turns := rfl
@[simp] theorem logApply_draws (e : ApplyEntry) : (s.logApply e).draws = s.draws := rfl

/-! ## setLines -/

@[simp] theorem setLines_cfg (lv : Lines) : (s.setLines lv).cfg = s.cfg := rfl
@[simp] theorem setLines_dispValid (lv : Lines) : (s.setLines lv).dispValid = s.dispValid := rfl
@[simp] theorem setLines_dispSym (lv : Lines) : (s.setLines lv).dispSym = s.dispSym := rfl
@[simp] theorem setLines_segRom (lv : Lines) : (s.setLines lv).segRom = s.segRom := rfl
@[simp] theorem setLines_ctrl (lv : Lines) : (s.setLines lv).ctrl = s.ctrl := rfl
@[simp] theorem setLines_lines (lv : Lines) : (s.setLines lv).lines = some lv := rfl
@[simp] theorem setLines_applyLog (lv : Lines) : (s.setLines lv).applyLog = s.applyLog := rfl
@[simp] theorem setLines_responses (lv : Lines) : (s.setLines lv).responses = s.responses := rfl
@[simp] theorem setLines_requesters (lv : Lines) : (s.setLines lv).requesters = s.requesters := rfl
@[simp] theorem setLines_serving (lv : Lines) : (s.setLines lv).serving = s.serving := rfl
@[simp] theorem setLines_answers (lv : Lines) : (s.setLines lv).answers = s.answers := rfl
@[simp] theorem setLines_turns (lv : Lines) : (s.setLines lv).turns = s.turns := rfl
@[simp] theorem setLines_draws (lv : Lines) : (s.setLines lv).draws = s.draws := rfl

/-! ## setCtrl -/

@[simp] theorem setCtrl_cfg (c : Ctrl) : (s.setCtrl c).cfg = s.cfg := rfl
@[simp] theorem setCtrl_dispValid (c : Ctrl) : (s.setCtrl c).dispValid = s.dispValid := rfl
@[simp] theorem setCtrl_dispSym (c : Ctrl) : (s.setCtrl c).dispSym = s.dispSym := rfl
@[simp] theorem setCtrl_segRom (c : Ctrl) : (s.setCtrl c).segRom = s.segRom := rfl
@[simp] theorem setCtrl_ctrl (c : Ctrl) : (s.setCtrl c).ctrl = c := rfl
@[simp] theorem setCtrl_lines (c : Ctrl) : (s.setCtrl c).lines = s.lines := rfl
@[simp] theorem setCtrl_applyLog (c : Ctrl) : (s.setCtrl c).applyLog = s.applyLog := rfl
@[simp] theorem setCtrl_responses (c : Ctrl) : (s.setCtrl c).responses = s.responses := rfl
@[simp] theorem setCtrl_requesters (c : Ctrl) : (s.setCtrl c).requesters = s.requesters := rfl
@[simp] theorem setCtrl_serving (c : Ctrl) : (s.setCtrl c).serving = s.serving := rfl
@[simp] theorem setCtrl_answers (c : Ctrl) : (s.setCtrl c).answers = s.answers := rfl
@[simp] theorem setCtrl_turns (c : Ctrl) : (s.setCtrl c).turns = s.turns := rfl
@[simp] theorem setCtrl_draws (c : Ctrl) : (s.setCtrl c).draws = s.draws := rfl

/-! ## afterDraw -/

@[simp] theorem afterDraw_cfg : (s.afterDraw).cfg = s.cfg := rfl
@[simp] theorem afterDraw_dispValid : (s.afterDraw).dispValid = s.dispValid := rfl
@[simp] theorem afterDraw_dispSym : (s.afterDraw).dispSym = s.dispSym := rfl
@[simp] theorem afterDraw_segRom : (s.afterDraw).segRom = s.segRom := rfl
@[simp] theorem afterDraw_ctrl : (s.afterDraw).ctrl = s.ctrl := rfl
@[simp] theorem afterDraw_lines : (s.afterDraw).lines = s.lines := rfl
@[simp] theorem afterDraw_applyLog : (s.afterDraw).applyLog = s.applyLog := rfl
@[simp] theorem afterDraw_responses : (s.afterDraw).responses = s.responses := rfl
@[simp] theorem afterDraw_requesters : (s.afterDraw).requesters = s.requesters := rfl
@[simp] theorem afterDraw_serving : (s.afterDraw).serving = s.serving := rfl
@[simp] theorem afterDraw_answers : (s.afterDraw).answers = s.answers.tail := rfl
@[simp] theorem afterDraw_turns : (s.afterDraw).turns = s.turns := rfl
@[simp] theorem afterDraw_draws : (s.afterDraw).draws = if s.answers.isEmpty then s.draws + 1 else s.draws := rfl

/-! ## accept -/

@[simp] theorem accept_cfg (k : Nat) : (s.accept k).cfg = s.cfg := rfl
@[simp] theorem accept_dispValid (k : Nat) : (s.accept k).dispValid = s.dispValid := rfl
@[simp] theorem accept_dispSym (k : Nat) : (s.accept k).dispSym = s.dispSym := rfl
@[simp] theorem accept_segRom (k : Nat) : (s.accept k).segRom = s.segRom := rfl
@[simp] theorem accept_ctrl (k : Nat) : (s.accept k).ctrl = s.ctrl := rfl
@[simp] theorem accept_lines (k : Nat) : (s.accept k).lines = s.lines := rfl
@[simp] theorem accept_applyLog (k : Nat) : (s.accept k).applyLog = s.applyLog := rfl
@[simp] theorem accept_responses (k : Nat) : (s.accept k).responses = s.responses := rfl
@[simp] theorem accept_requesters (k : Nat) : (s.accept k).requesters = s.requesters.modify k List.tail := rfl
@[simp] theorem accept_serving (k : Nat) : (s.accept k).serving = k := rfl
@[simp] theorem accept_answers (k : Nat) : (s.accept k).answers = s.answers := rfl
@[simp] theorem accept_turns (k : Nat) : (s.accept k).turns = s.turns.tail := rfl
@[simp] theorem accept_draws (k : Nat) : (s.accept k).draws = if s.turns.isEmpty then s.draws + 1 else s.draws := rfl

/-! ## finish -/

@[simp] theorem finish_cfg (o : Origin) (r : Response) : (s.finish o r).cfg = s.cfg := by cases o <;> rfl
@[simp] theorem finish_dispValid (o : Origin) (r : Response) : (s.finish o r).dispValid = s.dispValid := by cases o <;> rfl
@[simp] theorem finish_dispSym (o : Origin) (r : Response) : (s.finish o r).dispSym = s.dispSym := by cases o <;> rfl
@[simp] theorem finish_segRom (o : Origin) (r : Response) : (s.finish o r).segRom = s.segRom := by cases o <;> rfl
@[simp] theorem finish_lines (o : Origin) (r : Response) : (s.finish o r).lines = s.lines := by cases o <;> rfl
@[simp] theorem finish_applyLog (o : Origin) (r : Response) : (s.finish o r).applyLog = s.applyLog := by cases o <;> rfl
@[simp] theorem finish_requesters (o : Origin) (r : Response) : (s.finish o r).requesters = s.requesters := by cases o <;> rfl
@[simp] theorem finish_serving (o : Origin) (r : Response) : (s.finish o r).serving = s.serving := by cases o <;> rfl
@[simp] theorem finish_answers (o : Origin) (r : Response) : (s.finish o r).answers = s.answers := by cases o <;> rfl
@[simp] theorem finish_turns (o : Origin) (r : Response) : (s.finish o r).turns = s.turns := by cases o <;> rfl
@[simp] theorem finish_draws (o : Origin) (r : Response) : (s.finish o r).draws = s.draws := by cases o <;> rfl
@[simp] theorem finish_ctrl (o : Origin) (r : Response) : (s.finish o r).ctrl = .idle := by cases o <;> rfl
@[simp] theorem finish_set_responses (r : Response) :
    (s.finish .set r).responses = s.responses ++ [(s.serving, r)] := rfl
@[simp] theorem finish_reset_responses (r : Response) : (s.finish .reset r).responses = s.responses := rfl

end Sys2Proof.Machine.State
end

