-- ==== Sys2Proof/Laws/Ops.lean ====
section
/-! SUPPORT. One lemma per shared operation that says what it can do; proofs cite these and unfold nothing below them. -/

namespace Sys2Proof.Machine

/-! ## SEG_ROM -/

/-- A well-formed memory lists nothing: the only memory is read-only. -/
theorem Memory.eq_nil_of_wf {m : Memory} (h : Memory.wf m = true) : m = [] := by
  cases m with
  | nil => rfl
  | cons c m => simp [Memory.wf, Memory.writable] at h

theorem Memory.wf_nil : Memory.wf [] = true := rfl

@[simp] theorem Memory.read_nil (a : Nat) : Memory.read [] a = segRomTable[a]? := rfl

theorem Memory.read_of_wf {m : Memory} (h : Memory.wf m = true) (a : Nat) : Memory.read m a = segRomTable[a]? := by
  rw [Memory.eq_nil_of_wf h, Memory.read_nil]

theorem encodeMask_of_wf {m : Memory} (h : Memory.wf m = true) (v : Nat) : encodeMask m v = segRomTable[v]? :=
  Memory.read_of_wf h v

/-- Every symbol is a ROM index, whatever the memory. -/
theorem encodeMask_symbol_isSome (m : Memory) (sym : Symbol) : ∃ w, encodeMask m sym.toNat = some w := by
  have hlt : sym.toNat < segRomTable.length := sym.isLt
  unfold encodeMask Memory.read
  split
  · exact ⟨_, rfl⟩
  · exact ⟨_, List.getElem?_eq_getElem hlt⟩

/-- R69: the range check passes for every symbol. -/
@[simp] theorem inRange_symbol (sym : Symbol) : inRange sym.toNat = true := by
  have := sym.isLt
  simp only [inRange, decide_eq_true_eq]
  omega

/-! ## DRIVE -/

@[simp] theorem getLsbD_setLine (lv : Lines) (j : Nat) (b : Bool) (i : Nat) :
    (setLine lv j b).getLsbD i = if i = j ∧ i < 8 then b else lv.getLsbD i := by
  have key : (1#8 <<< j).getLsbD i = decide (i = j ∧ i < 8) := by
    rw [BitVec.getLsbD_shiftLeft, BitVec.getLsbD_one, Bool.eq_iff_iff]
    simp only [Bool.and_eq_true, decide_eq_true_eq, Bool.not_eq_true', decide_eq_false_iff_not]
    omega
  cases b with
  | true =>
    simp only [setLine, if_true, BitVec.getLsbD_or, key]
    split_ifs with h
    · rw [decide_eq_true h, Bool.or_true]
    · rw [decide_eq_false h, Bool.or_false]
  | false =>
    simp only [setLine, Bool.false_eq_true, if_false, BitVec.getLsbD_and, BitVec.getLsbD_not, key]
    split_ifs with h
    · rw [decide_eq_true h, Bool.not_true, Bool.and_false, Bool.and_false]
    · by_cases h8 : i < 8
      · rw [decide_eq_false h, decide_eq_true h8, Bool.not_false, Bool.and_true, Bool.and_true]
      · rw [BitVec.getLsbD_of_ge lv i (by omega), Bool.false_and]

/-! ## APPLY -/

/-- An answer the core receives has the width of the bus's error code (R9). -/
theorem State.busDraw_err_lt {s : State} {e : BusErr} (h : s.busDraw = some (.err e)) : e < 2 ^ s.cfg.busErrW := by
  simp only [State.busDraw, Option.map_eq_some_iff] at h
  obtain ⟨a, -, ha⟩ := h
  cases a with
  | ok => simp [answerOfWidth] at ha
  | err c =>
    simp only [answerOfWidth, BusAnswer.err.injEq] at ha
    exact ha ▸ Nat.mod_lt _ (Nat.two_pow_pos _)

theorem State.busDraw_of_scripted (s : State) (a : Option BusAnswer) (as : List (Option BusAnswer))
    (h : s.answers = a :: as) : s.busDraw = a.map (answerOfWidth s.cfg.busErrW) := by
  simp [State.busDraw, h]

theorem busApply_silent {m : Mask} {lv : Lines} {s : State} (h : s.busDraw = none) :
    busApply m lv s = (none, s.afterDraw) := by
  simp [busApply, h]

theorem busApply_answered {m : Mask} {lv : Lines} {s : State} {a : BusAnswer} (h : s.busDraw = some a) :
    busApply m lv s =
      (some a, (s.afterDraw.logApply { mask := m, lines := lv, answer := a }).applied a lv) := by
  simp [busApply, h]

/-- The bus has not answered: the symbol stays pending. -/
theorem showSymbol_silent {s : State} (o : Origin) (sym : Symbol) (m : Mask) (h : s.busDraw = none) :
    showSymbol o sym m s = s.afterDraw.setCtrl (.applying o sym) := by
  simp [showSymbol, busApply_silent h]

/-- The APPLY succeeded. -/
theorem showSymbol_ok {s : State} (o : Origin) (sym : Symbol) (m : Mask) (h : s.busDraw = some .ok) :
    showSymbol o sym m s =
      (((s.afterDraw.logApply { mask := m, lines := drive s.cfg m, answer := .ok }).setLines
        (drive s.cfg m)).display sym).finish o (Response.success sym) := by
  simp [showSymbol, busApply_answered h, State.applied]

/-- The APPLY failed. -/
theorem showSymbol_err {s : State} {e : BusErr} (o : Origin) (sym : Symbol) (m : Mask) (h : s.busDraw = some (.err e)) :
    showSymbol o sym m s =
      (s.afterDraw.logApply { mask := m, lines := drive s.cfg m, answer := .err e }).finish o
        (Response.busError e) := by
  simp [showSymbol, busApply_answered h, State.applied]

/-- Everything an APPLY can do to the state, by the bus's answer. -/
theorem showSymbol_cases (o : Origin) (sym : Symbol) (m : Mask) (s : State) :
    (s.busDraw = none ∧ showSymbol o sym m s = s.afterDraw.setCtrl (.applying o sym)) ∨
    (s.busDraw = some .ok ∧ showSymbol o sym m s =
      (((s.afterDraw.logApply { mask := m, lines := drive s.cfg m, answer := .ok }).setLines
        (drive s.cfg m)).display sym).finish o (Response.success sym)) ∨
    (∃ e, s.busDraw = some (.err e) ∧ e < 2 ^ s.cfg.busErrW ∧ showSymbol o sym m s =
      (s.afterDraw.logApply { mask := m, lines := drive s.cfg m, answer := .err e }).finish o
        (Response.busError e)) := by
  rcases h : s.busDraw with _ | (_ | e)
  · exact .inl ⟨rfl, showSymbol_silent o sym m h⟩
  · exact .inr (.inl ⟨rfl, showSymbol_ok o sym m h⟩)
  · exact .inr (.inr ⟨e, rfl, State.busDraw_err_lt h, showSymbol_err o sym m h⟩)

/-- The APPLY of a symbol always goes through: a 4-bit symbol passes the range check and has a ROM word. -/
theorem applySymbol_next (o : Origin) (sym : Symbol) (s : State) :
    ∃ m, encodeMask s.segRom sym.toNat = some m ∧ applySymbol o sym s = .next (showSymbol o sym m s) := by
  obtain ⟨m, hm⟩ := encodeMask_symbol_isSome s.segRom sym
  exact ⟨m, hm, by simp [applySymbol, hm]⟩

theorem applySymbol_eq_of_encode {o : Origin} {sym : Symbol} {s : State} {m : Mask}
    (hm : encodeMask s.segRom sym.toNat = some m) : applySymbol o sym s = .next (showSymbol o sym m s) := by
  simp [applySymbol, hm]

/-- Inversion: if the APPLY of a symbol answers next t, t is `showSymbol` with the symbol's ROM word. -/
theorem applySymbol_cases {o : Origin} {sym : Symbol} {s t : State} (h : applySymbol o sym s = .next t) :
    ∃ m, encodeMask s.segRom sym.toNat = some m ∧ t = showSymbol o sym m s := by
  obtain ⟨m, hm, ha⟩ := applySymbol_next o sym s
  exact ⟨m, hm, by rw [ha] at h; injection h with h; exact h.symm⟩

/-! ## Requests -/

theorem execGet_eq (s : State) : exec .get s = .next (s.respond (getResponse s.dispValid s.dispSym)) := rfl

theorem execSet_of_token {s : State} {te : Bool} {ch : Byte} {sym : Symbol} (h : tokenSymbol s.cfg te ch = some sym) :
    exec (.set te ch) s = applySymbol .set sym s := by
  simp [exec, execSet, h]

theorem execSet_of_rejected {s : State} {te : Bool} {ch : Byte} (h : tokenSymbol s.cfg te ch = none) :
    exec (.set te ch) s = .next (s.respond Response.invalidSymbol) := by
  simp [exec, execSet, h]

/-- The token's symbol: the parsed one, or the substitute in compatibility mode. -/
theorem tokenSymbol_eq_some_iff (cfg : Config) (te : Bool) (ch : Byte) (sym : Symbol) :
    tokenSymbol cfg te ch = some sym ↔
      parse te ch = some sym ∨ (parse te ch = none ∧ cfg.strict = false ∧ sym = 8#4) := by
  unfold tokenSymbol
  rcases parse te ch with _ | v <;> cases cfg.strict <;> simp [fallbackSymbol, eq_comm]

theorem tokenSymbol_eq_none_iff (cfg : Config) (te : Bool) (ch : Byte) :
    tokenSymbol cfg te ch = none ↔ parse te ch = none ∧ cfg.strict = true := by
  unfold tokenSymbol
  rcases parse te ch with _ | v <;> cases cfg.strict <;> simp

/-- Inversion of one request: everything `exec` can answer a next state with. -/
theorem exec_next_cases {i : Instr} {s t : State} (h : exec i s = .next t) :
    (i = .get ∧ t = s.respond (getResponse s.dispValid s.dispSym)) ∨
    (∃ te ch, i = .set te ch ∧ tokenSymbol s.cfg te ch = none ∧ t = s.respond Response.invalidSymbol) ∨
    (∃ te ch sym m, i = .set te ch ∧ tokenSymbol s.cfg te ch = some sym ∧
      encodeMask s.segRom sym.toNat = some m ∧ t = showSymbol .set sym m s) := by
  cases i with
  | get => exact .inl ⟨rfl, by injection h with h; exact h.symm⟩
  | set te ch =>
    rcases htok : tokenSymbol s.cfg te ch with _ | sym
    · rw [execSet_of_rejected htok] at h
      exact .inr (.inl ⟨te, ch, rfl, htok, by injection h with h; exact h.symm⟩)
    · rw [execSet_of_token htok] at h
      obtain ⟨m, hm, ht⟩ := applySymbol_cases h
      exact .inr (.inr ⟨te, ch, sym, m, rfl, htok, hm, ht⟩)
  | reserved10 => exact nomatch h
  | reserved11 => exact nomatch h

/-! ## The step -/

theorem step_of_applying {s : State} {o : Origin} {sym : Symbol} (h : s.ctrl = .applying o sym) :
    step s = applySymbol o sym s := by
  simp [step, h]

theorem step_of_idle {s : State} (h : s.ctrl = .idle) (hn : s.nextRequest = none) : step s = .next s := by
  simp [step, h, hn]

theorem step_of_request {s : State} {k : Nat} {q : Word} (h : s.ctrl = .idle) (hn : s.nextRequest = some (k, q)) :
    step s = exec (decode q) (s.accept k) := by
  simp [step, h, hn]

/-- Inversion of a step: the bus moves, or the core is idle, or one request is performed. -/
theorem step_next_cases {s t : State} (h : step s = .next t) :
    (∃ o sym m, s.ctrl = .applying o sym ∧ encodeMask s.segRom sym.toNat = some m ∧ t = showSymbol o sym m s) ∨
    (s.ctrl = .idle ∧ s.nextRequest = none ∧ t = s) ∨
    (∃ k q, s.ctrl = .idle ∧ s.nextRequest = some (k, q) ∧ exec (decode q) (s.accept k) = .next t) := by
  rcases hc : s.ctrl with _ | ⟨o, sym⟩
  · rcases hn : s.nextRequest with _ | ⟨k, q⟩
    · rw [step_of_idle hc hn] at h
      injection h with h
      exact .inr (.inl ⟨rfl, rfl, h.symm⟩)
    · rw [step_of_request hc hn] at h
      exact .inr (.inr ⟨k, q, rfl, rfl, h⟩)
  · rw [step_of_applying hc] at h
    obtain ⟨m, hm, ht⟩ := applySymbol_cases h
    exact .inl ⟨o, sym, m, rfl, hm, ht⟩

end Sys2Proof.Machine
end

