-- ==== Sys2Proof/Laws/PerInstr.lean ====
section
/-! SUPPORT. The statements made per instruction (LAWS.json, "per_instruction"). -/

namespace Sys2Proof.Laws

/-- The encoded word lies in the instruction's own row of spec/opcode_table.json. -/
def EncodedInItsRow.Statement (i : Instr) : Prop :=
  (opcodeTable.filter (fun r => r.matchesWord (encode i))).map OpcodeRow.mnemonic = [i.mnemonic]

theorem EncodedInItsRow.get : EncodedInItsRow.Statement .get := by unfold EncodedInItsRow.Statement; decide

theorem EncodedInItsRow.set (te : Bool) (ch : Byte) : EncodedInItsRow.Statement (.set te ch) := by
  have h : encode (.set te ch) &&& 0xC000#16 = 0x4000#16 := by
    revert te ch
    decide
  simp [EncodedInItsRow.Statement, opcodeTable, OpcodeRow.matchesWord, h, Instr.mnemonic]

theorem EncodedInItsRow.reserved10 : EncodedInItsRow.Statement .reserved10 := by
  unfold EncodedInItsRow.Statement; decide

theorem EncodedInItsRow.reserved11 : EncodedInItsRow.Statement .reserved11 := by
  unfold EncodedInItsRow.Statement; decide

end Sys2Proof.Laws
end

