-- ==== Sys2Proof/Laws/Step.lean ====
section
/-! SUPPORT. What one step, and a run of steps, can do to the core's state, the lines, the log and the responses, said once. -/

namespace Sys2Proof.Machine

/-- The display is as it was: the log has at most one failed entry more, and any new response reports what was there. -/
def LeavesDisplay (s t : State) : Prop :=
  t.dispValid = s.dispValid ∧ t.dispSym = s.dispSym ∧ t.lines = s.lines ∧
  (t.applyLog = s.applyLog ∨ ∃ (sym : Symbol) (m : Mask) (e : BusErr),
    encodeMask s.segRom sym.toNat = some m ∧ e < 2 ^ s.cfg.busErrW ∧
    t.applyLog = s.applyLog ++ [{ mask := m, lines := drive s.cfg m, answer := .err e }]) ∧
  (t.responses = s.responses ∨ (∃ k, t.responses = s.responses ++ [(k, getResponse s.dispValid s.dispSym)]) ∨
    (∃ k, t.responses = s.responses ++ [(k, Response.invalidSymbol)]) ∨
    ∃ k e, e < 2 ^ s.cfg.busErrW ∧ t.responses = s.responses ++ [(k, Response.busError e)])

/-- A symbol has been shown: state, lines and log agree on it, and any new response names it. -/
def ShowsSymbol (s t : State) : Prop :=
  ∃ m, encodeMask s.segRom t.dispSym.toNat = some m ∧ t.dispValid = true ∧ t.lines = some (drive s.cfg m) ∧
    t.applyLog = s.applyLog ++ [{ mask := m, lines := drive s.cfg m, answer := .ok }] ∧
    (t.responses = s.responses ∨ ∃ k, t.responses = s.responses ++ [(k, Response.success t.dispSym)])

/-- The APPLY of a symbol leaves the display or shows the symbol. -/
theorem applySymbol_effect {o : Origin} {sym : Symbol} {s t : State} (h : applySymbol o sym s = .next t) :
    t.cfg = s.cfg ∧ t.segRom = s.segRom ∧ (LeavesDisplay s t ∨ ShowsSymbol s t) := by
  obtain ⟨m, hm, rfl⟩ := applySymbol_cases h
  rcases showSymbol_cases o sym m s with ⟨-, hs⟩ | ⟨-, hs⟩ | ⟨e, -, he, hs⟩ <;> rw [hs]
  · exact ⟨rfl, rfl, .inl ⟨rfl, rfl, rfl, .inl rfl, .inl rfl⟩⟩
  · refine ⟨by simp, by simp, .inr ⟨m, by simpa using hm, by simp, by simp, by simp, ?_⟩⟩
    cases o
    · exact .inr ⟨s.serving, rfl⟩
    · exact .inl rfl
  · refine ⟨by simp, by simp, .inl ⟨by simp, by simp, by simp, .inr ⟨sym, m, e, hm, he, by simp⟩, ?_⟩⟩
    cases o
    · exact .inr (.inr (.inr ⟨s.serving, e, he, rfl⟩))
    · exact .inl rfl

/-- A request being taken up changes nothing that these effects speak of. -/
theorem effect_of_accept {k : Nat} {s t : State} (h : LeavesDisplay (s.accept k) t ∨ ShowsSymbol (s.accept k) t) :
    LeavesDisplay s t ∨ ShowsSymbol s t := by
  simpa [LeavesDisplay, ShowsSymbol] using h

/-- Every step keeps the configuration and the ROM, and leaves the display or shows a symbol. -/
theorem step_effect {s t : State} (h : step s = .next t) :
    t.cfg = s.cfg ∧ t.segRom = s.segRom ∧ (LeavesDisplay s t ∨ ShowsSymbol s t) := by
  rcases step_next_cases h with ⟨o, sym, m, hc, -, -⟩ | ⟨-, -, rfl⟩ | ⟨k, q, -, -, hx⟩
  · rw [step_of_applying hc] at h
    exact applySymbol_effect h
  · exact ⟨rfl, rfl, .inl ⟨rfl, rfl, rfl, .inl rfl, .inl rfl⟩⟩
  · rcases exec_next_cases hx with ⟨-, rfl⟩ | ⟨te, ch, -, -, rfl⟩ | ⟨te, ch, sym, m, hi, htok, -, -⟩
    · exact ⟨rfl, rfl, .inl ⟨rfl, rfl, rfl, .inl rfl, .inr (.inl ⟨k, rfl⟩)⟩⟩
    · exact ⟨rfl, rfl, .inl ⟨rfl, rfl, rfl, .inl rfl, .inr (.inr (.inl ⟨k, rfl⟩))⟩⟩
    · rw [hi, execSet_of_token htok] at hx
      obtain ⟨hc, hr, he⟩ := applySymbol_effect hx
      exact ⟨hc, hr, effect_of_accept he⟩

/-- A run whose first step answers a next state goes on from there. -/
theorem run_of_next {s t : State} (n : Nat) (h : step s = .next t) :
    Sys2Proof.core.run (n + 1) s = Sys2Proof.core.run n t := by
  simp only [Host.Core.run]
  rw [show Sys2Proof.core.step s = .next t from h]

/-- A run of one step is the step. -/
theorem run_one (s : State) : Sys2Proof.core.run 1 s = step s := by
  simp only [Host.Core.run]
  change _ = Sys2Proof.core.step s
  cases Sys2Proof.core.step s <;> rfl

/-- Induction over a run: a relation that is reflexive and that a step can be put in front of holds between its ends. -/
theorem run_induction {P : State → State → Prop} (refl : ∀ s, P s s)
    (cons : ∀ s t u, step s = .next t → P t u → P s u) :
    ∀ (n : Nat) (s t : State), Sys2Proof.core.run n s = .next t → P s t := by
  intro n
  induction n with
  | zero => intro s t h; cases h; exact refl s
  | succ n ih =>
    intro s t h
    simp only [Host.Core.run] at h
    split at h
    · exact cons s _ t ‹_› (ih _ _ h)
    · exact nomatch h
    · exact nomatch h

/-! ## The request port -/

theorem waitingWord_eq_some {rs : List (List Word)} {k : Nat} {q : Word} :
    waitingWord rs k = some q ↔ ∃ qs, rs[k]? = some (q :: qs) := by
  unfold waitingWord
  split <;> simp_all

theorem firstWaiting_eq_none (rs : List (List Word)) (k : Nat) : firstWaiting rs k = none ↔ ∀ p ∈ rs, p = [] := by
  induction rs generalizing k with
  | nil => simp [firstWaiting]
  | cons p ps ih => cases p <;> simp [firstWaiting, ih]

/-- Only an empty port gives the core nothing to take up. -/
theorem State.nextRequest_eq_none (s : State) : s.nextRequest = none ↔ ∀ p ∈ s.requesters, p = [] := by
  unfold State.nextRequest
  split
  · rename_i w h
    obtain ⟨qs, hq⟩ := waitingWord_eq_some.1 h
    simp only [reduceCtorEq, false_iff, not_forall]
    exact ⟨_, List.mem_of_getElem? hq, by simp⟩
  · exact firstWaiting_eq_none _ _

/-! ## The configuration -/

theorem config_wf_iff (cfg : Config) : cfg.wf = true ↔
    1 ≤ cfg.nLines ∧ cfg.nLines ≤ 8 ∧ cfg.lineMap.length = cfg.nLines ∧ (∀ j ∈ cfg.lineMap, j < cfg.nLines) ∧
      cfg.lineMap.Nodup := by
  simp [Config.wf, Config.lineCountOk, Config.lineMapOk, and_assoc]

/-- A construction that answers a next state had a legal configuration, and is the rest of the reset. -/
theorem construct_cases {cfg : Config} {x : Symbol} {rs : List (List Word)} {as : List (Option BusAnswer)} {ts : List Nat}
    {d : Nat} {t : State} (h : construct cfg x rs as ts d = .next t) :
    cfg.wf = true ∧ resetApply (blankInstance cfg x rs as ts d) = .next t := by
  unfold construct at h
  split at h
  · split at h
    · exact ⟨by simp_all [Config.wf], h⟩
    · exact nomatch h
  · exact nomatch h

end Sys2Proof.Machine
end

