-- ==== Sys2Proof/Laws/StateMachine.lean ====
section
/-! SUPPORT. The rows of the state machine of R77 (Safety.lean) in the terms the meanings use: a token's symbol, a response. -/

namespace Sys2Proof.Machine

/-- R54: the word of a success is 0x90 + s. -/
theorem success_word : ∀ s : Symbol, (Response.success s).word = 0x90#8 + s.setWidth 8 := by decide

theorem success_seen (s : Symbol) : (Response.success s).seen = (0x90#8 + s.setWidth 8, 0) := by
  rw [Response.seen, success_word]
  rfl

theorem busError_seen (e : BusErr) : (Response.busError e).seen = (0x60#8, e) := by
  simp [Response.seen, Response.word, Response.busError]
  decide

/-- R77, the GET rows. -/
theorem stateMachine_get (s : State) (strict : Bool) :
    stateMachine strict s.displayed .get = (s.displayed, (getResponse s.dispValid s.dispSym).seen) := by
  unfold State.displayed getResponse
  split
  · simp [stateMachine, success_seen]
  · rfl

/-- R77, the rows of a token that strict mode rejects. -/
theorem stateMachine_rejected {cfg : Config} {te : Bool} {ch : Byte} (d : Option Symbol) (a : BusAnswer)
    (h : tokenSymbol cfg te ch = none) :
    stateMachine cfg.strict d (.set te ch a) = (d, Response.invalidSymbol.seen) := by
  obtain ⟨hp, hs⟩ := (tokenSymbol_eq_none_iff _ _ _).1 h
  simp only [stateMachine, hp, hs]
  rfl

/-- R77, the rows of an APPLY answered ok. -/
theorem stateMachine_ok {cfg : Config} {te : Bool} {ch : Byte} {sym : Symbol} (d : Option Symbol)
    (h : tokenSymbol cfg te ch = some sym) :
    stateMachine cfg.strict d (.set te ch .ok) = (some sym, (Response.success sym).seen) := by
  rcases (tokenSymbol_eq_some_iff _ _ _ _).1 h with hp | ⟨hp, hs, rfl⟩
  · simp [stateMachine, hp, success_seen]
  · simp only [stateMachine, hp, hs]
    rfl

/-- R77, the rows of an APPLY answered `err(e)`. -/
theorem stateMachine_err {cfg : Config} {te : Bool} {ch : Byte} {sym : Symbol} (d : Option Symbol) (e : BusErr)
    (h : tokenSymbol cfg te ch = some sym) :
    stateMachine cfg.strict d (.set te ch (.err e)) = (d, (Response.busError e).seen) := by
  rcases (tokenSymbol_eq_some_iff _ _ _ _).1 h with hp | ⟨hp, hs, rfl⟩
  · simp [stateMachine, hp, busError_seen]
  · simp [stateMachine, hp, hs, busError_seen]

/-- A SET asks the bus exactly when its token has a symbol. -/
theorem applies_set (cfg : Config) (te : Bool) (ch : Byte) (a : BusAnswer) :
    (Operation.set te ch a).applies cfg.strict = (tokenSymbol cfg te ch).isSome := by
  unfold Operation.applies tokenSymbol
  rcases hp : parse te ch with _ | s <;> cases cfg.strict <;> simp [hp]

end Sys2Proof.Machine
end

