-- ==== Sys2Proof/Tests/Slice0.lean ====
section
/-! SUPPORT. The model's own tests (expected values from spec/95_test_vectors.md, each named) and one witness for the hypotheses
of every statement that has any. -/

namespace Sys2Proof.Tests

open Sys2Proof.Machine

/-! ## Helpers -/

/-- The outcome is a next state with the property. -/
def nextHas (o : Host.Outcome State Fault Refusal) (p : State → Bool) : Bool :=
  match o with
  | .next t => p t
  | .fault _ => false
  | .refused _ => false

/-- 8 lines, identity map, `BUS_ERR_W = 4` (95_test_vectors.md section 0). -/
def id8 (strict : Bool) (init : Option Symbol) : Config :=
  { nLines := 8, lineMap := [0, 1, 2, 3, 4, 5, 6, 7], strict := strict, initSymbol := init, busErrW := 4 }

def rev8 : Config := { id8 false none with lineMap := [7, 6, 5, 4, 3, 2, 1, 0] }

def rot7 : Config :=
  { nLines := 7, lineMap := [1, 2, 3, 4, 5, 6, 0], strict := false, initSymbol := some 0#4, busErrW := 2 }

def id4 : Config := { id8 false none with nLines := 4, lineMap := [0, 1, 2, 3] }

/-- D(5) with `L = some 0x6D`, as rows S3 to S13 start. -/
def shown5 (strict : Bool) (answers : List (Option BusAnswer)) (requesters : List (List Word)) : State :=
  { State.reset with
    cfg := id8 strict none
    dispValid := true
    dispSym := 5#4
    lines := some 0x6D#8
    applyLog := [{ mask := 0x6D#8, lines := 0x6D#8, answer := .ok }]
    answers := answers
    requesters := requesters
    turns := [0, 0, 0] }

/-- Uninitialized, with a script. -/
def blank (strict : Bool) (answers : List (Option BusAnswer)) (requesters : List (List Word)) : State :=
  { State.reset with cfg := id8 strict none, answers := answers, requesters := requesters, turns := [0, 0, 0] }

/-- D(5) with the APPLY of a SET of 7 outstanding. -/
def waiting7 (answers : List (Option BusAnswer)) : State :=
  { shown5 false answers [[0x0000#16]] with ctrl := .applying .set 7#4 }

/-! ## Well-formedness: each check refuses an ill-formed term -/

theorem test_wf_refuses_reserved10 : Instr.wf .reserved10 = false := by decide
theorem test_wf_refuses_reserved11 : Instr.wf .reserved11 = false := by decide
theorem test_wf_accepts_requests : Instr.wf .get = true ∧ Instr.wf (.set true 0xFF#8) = true := by decide
theorem test_lineCount_refuses_0 : Config.lineCountOk { id8 false none with nLines := 0 } = false := by decide
theorem test_lineCount_refuses_9 : Config.lineCountOk { id8 false none with nLines := 9 } = false := by decide
theorem test_lineMap_refuses_length : Config.lineMapOk { id8 false none with nLines := 7 } = false := by decide
theorem test_lineMap_refuses_missing_line :
    Config.lineMapOk { id4 with lineMap := [0, 1, 2, 4] } = false := by decide
theorem test_lineMap_refuses_doubled_line :
    Config.lineMapOk { id4 with lineMap := [0, 1, 2, 2] } = false := by decide
theorem test_cfg_accepts : (id8 true none).wf = true ∧ rev8.wf = true ∧ rot7.wf = true ∧ id4.wf = true := by decide

/-! ## Decoding: words written out bit by bit from R44 (OP, TE, RSV, CH), with 95_test_vectors.md 2.1 -/

theorem test_decode_get : decode 0b0000000000000000#16 = .get := by decide
theorem test_decode_get_ignored_fields : decode 0b0011111111111111#16 = .get := by decide
theorem test_decode_set_3 : decode 0b0100000000110011#16 = .set false 0x33#8 := by decide
theorem test_decode_set_rsv : decode 0b0101111100110011#16 = .set false 0x33#8 := by decide
theorem test_decode_set_empty : decode 0b0111111101000001#16 = .set true 0x41#8 := by decide
theorem test_decode_reserved10 : decode 0b1011111111111111#16 = .reserved10 := by decide
theorem test_decode_reserved11 : decode 0b1100000000000000#16 = .reserved11 := by decide
theorem test_decodeTableWord : decodeTableWord 16 0x4033 = some (.set false 0x33#8) ∧ decodeTableWord 24 0 = none := by
  decide

/-! ## Operations against the tables of 95_test_vectors.md -/

/-- 2.4, boundaries of the three ranges and the samples. -/
theorem test_parse :
    [0x2F#8, 0x30#8, 0x39#8, 0x3A#8, 0x40#8, 0x41#8, 0x46#8, 0x47#8, 0x60#8, 0x61#8, 0x66#8, 0x67#8, 0xB3#8].map
      (parse false) =
    [none, some 0#4, some 9#4, none, none, some 10#4, some 15#4, none, none, some 10#4, some 15#4, none, none] ∧
    parse true 0x33#8 = none := by decide

/-- 2.7, columns rev8, rot7 and N = 4 for s = 0 to 4 and 15. -/
theorem test_drive :
    [0x3F#8, 0x06#8, 0x5B#8, 0x4F#8, 0x66#8, 0x71#8].map (drive rev8) =
      [0xFC#8, 0x60#8, 0xDA#8, 0xF2#8, 0x66#8, 0x8E#8] ∧
    [0x3F#8, 0x06#8, 0x5B#8, 0x4F#8, 0x66#8, 0x71#8].map (drive rot7) =
      [0x7E#8, 0x0C#8, 0x37#8, 0x1F#8, 0x4D#8, 0x63#8] ∧
    [0x3F#8, 0x06#8, 0x5B#8, 0x4F#8, 0x66#8, 0x71#8].map (drive id4) =
      [0x0F#8, 0x06#8, 0x0B#8, 0x0F#8, 0x06#8, 0x01#8] := by decide

/-- 2.9, Z4: 7 lines, rot7, initial symbol 0, answered ok. -/
theorem test_construct_Z4 : nextHas (construct rot7 9#4 [] [some .ok] [] 0) (fun t =>
    t.displayed == some 0#4 && t.lines == some 0x7E#8 && !t.busy &&
      t.applyLog == [{ mask := 0x3F#8, lines := 0x7E#8, answer := .ok }]) = true := by decide

/-- 2.9, Z3: 8 lines, initial symbol 8, answered err(4). -/
theorem test_construct_Z3 : nextHas (construct (id8 true (some 8#4)) 9#4 [] [some (.err 4)] [] 0) (fun t =>
    t.displayed == none && t.lines == none && !t.busy &&
      t.applyLog == [{ mask := 0x7F#8, lines := 0x7F#8, answer := .err 4 }]) = true := by decide

/-! ## One step of each instruction -/

/-- 2.6, G1. -/
theorem test_get_G1 : nextHas (step (blank false [] [[0x0000#16]])) (fun t =>
    t.responses.map (fun p => (p.1, p.2.word)) == [(0, 0x80#8)] && t.applyLog == [] && t.displayed == none) = true := by
  decide

/-- 2.6, G3's word with its ignored bits set, in D(5). -/
theorem test_get_ignored_fields : nextHas (step (shown5 true [] [[0x3FFF#16]])) (fun t =>
    t.responses.map (fun p => p.2.word) == [0x95#8] && t.displayed == some 5#4 && hostRead t == [0x35#8]) = true := by
  decide

/-- 2.5, S13: the substituted 8 reaches the bus and fails. -/
theorem test_set_S13 : nextHas (step (shown5 false [some (.err 1)] [[0x4067#16]])) (fun t =>
    t.responses.map (fun p => (p.2.word, p.2.berr)) == [(0x60#8, 1)] && t.displayed == some 5#4 &&
      t.lines == some 0x6D#8 && t.applyLog.getLast? == some { mask := 0x7F#8, lines := 0x7F#8, answer := .err 1 }) =
    true := by decide

/-- 2.5, S20: 7 lines, rot7, `'1'`, answered ok. -/
theorem test_set_S20 : nextHas (step { shown5 false [some .ok] [[0x4031#16]] with cfg := rot7 }) (fun t =>
    t.responses.map (fun p => p.2.word) == [0x91#8] && t.displayed == some 1#4 && t.lines == some 0x0C#8 &&
      t.applyLog.getLast? == some { mask := 0x06#8, lines := 0x0C#8, answer := .ok }) = true := by decide

/-- 2.10, E5. -/
theorem test_reserved10_E5 : step (blank false [] [[0x8000#16]]) = .refused (.reservedOperation 0b10#2) := rfl
theorem test_reserved11_E5 : step (blank false [] [[0xFFFF#16]]) = .refused (.reservedOperation 0b11#2) := rfl

/-! ## Witnesses: states and operands that meet the hypotheses of each statement -/

/-- A state with a history that meets the invariant. -/
theorem shown5_inv (strict : Bool) (answers : List (Option BusAnswer)) (requesters : List (List Word)) :
    (shown5 strict answers requesters).Inv where
  cfg_wf := by cases strict <;> rfl
  rom_wf := rfl
  consistent := by
    cases strict
    · exact congrArg some (show 0x6D#8 = drive (id8 false none) 0x6D#8 by decide)
    · exact congrArg some (show 0x6D#8 = drive (id8 true none) 0x6D#8 by decide)
  lines_last := by cases strict <;> rfl
  log_legal := by
    intro e he
    obtain rfl : e = { mask := 0x6D#8, lines := 0x6D#8, answer := .ok } := by simpa [shown5] using he
    exact ⟨by decide, by cases strict <;> (simp only [shown5]; decide), fun c hc => nomatch hc⟩
  responses_legal := fun p hp => nomatch hp

theorem witness_DecodeByOperationField :
    (0x3FFF#16).extractLsb' 14 2 = 0b00#2 ∧ (0x4000#16).extractLsb' 14 2 = 0b01#2 ∧
    (0x8000#16).extractLsb' 14 2 = 0b10#2 ∧ (0xFFFF#16).extractLsb' 14 2 = 0b11#2 := by decide

theorem witness_RomHoldsTheTable : Memory.wf [] = true ∧ 16 ≤ 16 ∧ encodeMask [] 15 = some 0x71#8 := by decide

theorem witness_DecimalPointNeverLit :
    (Memory.wf [] = true ∧ encodeMask [] (8#4 : Symbol).toNat = some 0x7F#8) ∧
    ∃ s : State, s.Inv ∧ ∃ e, e ∈ s.applyLog :=
  ⟨by decide, shown5 true [] [], shown5_inv true [] [], _, List.mem_singleton.2 rfl⟩

theorem witness_EncodeIsInjective :
    Memory.wf [] = true ∧ encodeMask [] (0#4 : Symbol).toNat = encodeMask [] (0#4 : Symbol).toNat ∧
    encodeMask [] (0#4 : Symbol).toNat = some 0x3F#8 := by decide

theorem witness_RomNeverWritten :
    (∃ t, step (shown5 false [some .ok] [[0x4033#16]]) = .next t) ∧
    ∃ t, construct (id8 false (some 8#4)) 0#4 [] [some .ok] [] 0 = .next t := ⟨⟨_, rfl⟩, ⟨_, rfl⟩⟩

theorem witness_ParseRecognizesTheCodes :
    parse false 0x30#8 = some 0#4 ∧ parse false 0x39#8 = some 9#4 ∧ parse false 0x41#8 = some 10#4 ∧
    parse false 0x46#8 = some 15#4 ∧ parse false 0x61#8 = some 10#4 ∧ parse false 0x66#8 = some 15#4 := by decide

theorem witness_ParseIgnoresLetterCase :
    (0x41#8 ≤ 0x41#8 ∧ 0x41#8 ≤ 0x46#8) ∧ (0x41#8 ≤ 0x46#8 ∧ 0x46#8 ≤ 0x46#8) ∧
    parse false 0x41#8 = some 10#4 ∧ parse false 0x46#8 = some 15#4 := by decide

theorem witness_TextualFormOfSymbol :
    (9#4 : Symbol).toNat ≤ 9 ∧ 10 ≤ (10#4 : Symbol).toNat ∧ symbolChar 9#4 = 0x39#8 ∧ symbolChar 10#4 = 0x61#8 := by
  decide

theorem witness_DriveRoutesMaskBits :
    rot7.wf = true ∧ 0 < rot7.nLines ∧ 6 < rot7.nLines ∧ rot7.nLines ≤ 7 ∧
    ∀ i, i < 7 → (0x86#8).getLsbD i = (0x06#8).getLsbD i := by decide

theorem witness_EveryLineHasOneMaskBit :
    (rot7.wf = true ∧ 0 < rot7.nLines ∧ 6 < rot7.nLines) ∧
    ∃ t, step (shown5 false [some .ok] [[0x4033#16]]) = .next t := ⟨by decide, _, rfl⟩

theorem witness_DriveWithTheIdentityMap :
    ((id8 false none).nLines = 8 ∧ (id8 false none).lineMap = [0, 1, 2, 3, 4, 5, 6, 7] ∧ 0x7F#8 ∈ segRomTable) ∧
    ∃ cfg : Config, cfg.wf = true ∧ cfg.nLines = 7 ∧ cfg.lineMap = [0, 1, 2, 3, 4, 5, 6] :=
  ⟨by decide, { id8 false none with nLines := 7, lineMap := [0, 1, 2, 3, 4, 5, 6] }, by decide⟩

theorem witness_ConstructUninitialized : (id8 true none).wf = true ∧ (id8 true none).initSymbol = none := by decide

theorem witness_ConstructAppliesInitSymbol :
    rot7.wf = true ∧ rot7.initSymbol = some 0#4 ∧ segRomTable[(0#4 : Symbol).toNat]? = some 0x3F#8 ∧
    segRomTable[(15#4 : Symbol).toNat]? = some 0x71#8 := by decide

theorem witness_ConstructWaitsForTheBus : rot7.wf = true ∧ rot7.initSymbol = some 0#4 := by decide

theorem witness_ConstructRefusesBadLines :
    (∃ cfg : Config, cfg.nLines = 0) ∧ (∃ cfg : Config, 8 < cfg.nLines) ∧
    ∃ cfg : Config, 1 ≤ cfg.nLines ∧ cfg.nLines ≤ 8 ∧ ¬ cfg.lineMap.Perm (List.range cfg.nLines) :=
  ⟨⟨{ id4 with nLines := 0 }, rfl⟩, ⟨{ id4 with nLines := 9 }, by decide⟩,
    ⟨{ id4 with lineMap := [0, 1, 2, 2] }, by decide⟩⟩

/-- A reset-time APPLY that the bus does not answer in this step either, and a step from a shown symbol. -/
theorem witness_NoStepResetsTheCore :
    (∃ s t, step s = .next t ∧ t.ctrl = .applying .reset 8#4) ∧
    (shown5 false [some .ok] [[0x4033#16]]).dispValid = true ∧
    ∃ t, step (shown5 false [some .ok] [[0x4033#16]]) = .next t :=
  ⟨⟨{ blank true [none] [] with ctrl := .applying .reset 8#4 }, _, rfl, rfl⟩, rfl, _, rfl⟩

theorem witness_GetReportsDisplayState :
    (shown5 true [] []).dispValid = true ∧ (blank true [] []).dispValid = false := by decide

/-- After a GET in D(5) a SET fails, and the GET is repeated. -/
theorem witness_GetMayBeRepeated : ∃ t u,
    exec .get (shown5 false [some (.err 3)] [[0x4041#16]]) = .next t ∧ Sys2Proof.core.run 1 t = .next u ∧
    u.applyLog.length = 2 ∧
    ∀ e ∈ u.applyLog.drop (shown5 false [some (.err 3)] [[0x4041#16]]).applyLog.length, e.answer ≠ .ok :=
  ⟨_, _, rfl, rfl, by decide⟩

theorem witness_SetFollowsItsRule :
    (parse false 0x3A#8 = none ∧ (blank true [] []).cfg.strict = true) ∧
    (parse false 0x33#8 = some 3#4 ∧ encodeMask (shown5 true [some .ok] []).segRom 3 = some 0x4F#8 ∧
      (shown5 true [some .ok] []).busDraw = some .ok) ∧
    (parse false 0x67#8 = none ∧ (shown5 false [some (.err 0)] []).cfg.strict = false ∧
      encodeMask (shown5 false [some (.err 0)] []).segRom 8 = some 0x7F#8 ∧
      (shown5 false [some (.err 0)] []).busDraw = some (.err 0)) ∧
    (parse false 0x46#8 = some 15#4 ∧ encodeMask (blank true [some (.err 15)] []).segRom 15 = some 0x71#8 ∧
      (blank true [some (.err 15)] []).busDraw = some (.err 15)) := by decide

theorem witness_StrictModeRejectsTheToken :
    (blank true [] []).cfg.strict = true ∧ parse false 0x40#8 = none ∧ parse true 0x33#8 = none := by decide

theorem witness_CompatibilityModeShowsEight :
    (blank false [] []).cfg.strict = false ∧ parse false 0x40#8 = none ∧ parse true 0x33#8 = none := by decide

theorem witness_SetWaitsForTheBus :
    parse false 0x46#8 = some 15#4 ∧ (blank true [none] []).busDraw = none ∧
    parse true 0x46#8 = none ∧ (blank false [none] []).cfg.strict = false ∧ (blank false [none] []).busDraw = none := by
  decide

theorem witness_EveryBusAnswerIsAdmitted :
    15 < 2 ^ (blank true [] []).cfg.busErrW ∧ ∀ e, some BusAnswer.ok = some (.err e) → e < 2 ^ 4 :=
  ⟨by decide, fun _ h => nomatch h⟩

/-- After the SET a second one fails. -/
theorem witness_SetThenGetReturnsTheSymbol :
    parse false 0x63#8 = some 12#4 ∧ encodeMask (blank true [some .ok] []).segRom 12 = some 0x39#8 ∧
    (blank true [some .ok, some (.err 1)] [[0x4030#16]]).busDraw = some .ok ∧
    ∃ t u, exec (.set false 0x63#8) (blank true [some .ok, some (.err 1)] [[0x4030#16]]) = .next t ∧
      Sys2Proof.core.run 1 t = .next u ∧ u.applyLog.length = 2 ∧
      ∀ e ∈ u.applyLog.drop t.applyLog.length, e.answer ≠ .ok :=
  ⟨by decide, by decide, by decide, _, _, rfl, rfl, by decide⟩

theorem witness_FailedSetLeavesTheSymbol : (shown5 true [some (.err 9)] []).busDraw = some (.err 9) ∧
    (shown5 true [some (.err 9)] []).ctrl = .idle ∧ parse false 0x37#8 ≠ none ∧
    (shown5 false [some (.err 9)] []).cfg.strict = false ∧
    ∃ t, exec (.set false 0x37#8) (shown5 true [some (.err 9)] []) = .next t :=
  ⟨by decide, rfl, by decide, rfl, _, rfl⟩

theorem witness_RepeatedSetAppliesAgain :
    (blank true [some .ok, some .ok] []).busDraw = some .ok ∧ parse false 0x65#8 ≠ none ∧
    (∃ t, exec (.set false 0x65#8) (blank true [some .ok, some .ok] []) = .next t ∧ t.busDraw = some .ok) ∧
    (blank false [some .ok, some .ok] []).cfg.strict = false ∧
    ∃ t, exec (.set true 0x65#8) (blank false [some .ok, some .ok] []) = .next t ∧ t.busDraw = some .ok :=
  ⟨by decide, by decide, ⟨_, rfl, rfl⟩, rfl, ⟨_, rfl, rfl⟩⟩

theorem witness_ReservedOperationsRefused :
    (0x8000#16).getLsbD 15 = true ∧ (0xBFFF#16).getLsbD 15 = true ∧ (0xC000#16).getLsbD 15 = true ∧
    (0xFFFF#16).getLsbD 15 = true ∧ (0x7FFF#16).getLsbD 15 = false := by decide

theorem witness_RequestFrame :
    (∃ t, exec .get (blank true [] []) = .next t) ∧
    ∃ t, exec (.set false 0x30#8) (blank true [some .ok] []) = .next t := ⟨⟨_, rfl⟩, ⟨_, rfl⟩⟩

theorem witness_DisplayStateWrittenOnlyByApply : ∃ t, step (shown5 false [some .ok] [[0x4033#16]]) = .next t ∧
    t.dispSym = 3#4 := ⟨_, rfl, rfl⟩

theorem witness_DispValidNeverCleared : (shown5 true [] []).dispValid = true ∧
    ∃ t, Sys2Proof.core.run 1 (shown5 false [some (.err 1)] [[0x4033#16]]) = .next t := ⟨rfl, _, rfl⟩

theorem witness_ParametersNeverChange :
    (∃ t, Sys2Proof.core.run 1 (shown5 false [some (.err 1)] [[0x4033#16]]) = .next t) ∧
    ∃ t, construct rot7 0#4 [] [some .ok] [] 0 = .next t := ⟨⟨_, rfl⟩, ⟨_, rfl⟩⟩

theorem witness_StepRunsTheDecodedRequest :
    (blank true [] [[0x4033#16]]).ctrl = .idle ∧
    (blank true [] [[0x4033#16]]).nextRequest = some (0, 0x4033#16) ∧ decode 0x4033#16 = .set false 0x33#8 := by decide

theorem witness_IdleCoreHoldsItsState : State.reset.ctrl = .idle ∧ ∀ p ∈ State.reset.requesters, p = [] :=
  ⟨rfl, fun _ hp => nomatch hp⟩

theorem witness_AnyWaitingRequesterMayBeNext :
    (blank true [] [[0x4035#16], [0x0000#16]]).requesters[1]? = some [0x0000#16] ∧
    (blank true [] [[], [0x0000#16]]).nextRequest = some (1, 0x0000#16) ∧ (blank true [] [[], []]).nextRequest = none := by
  decide

theorem witness_OneOperationAtATime :
    ((waiting7 [some .ok]).ctrl = .applying .set 7#4 ∧ ∃ t, step (waiting7 [some .ok]) = .next t) ∧
    (∃ s t, s.ctrl = .applying .reset 0#4 ∧ step s = .next t) ∧
    ((blank true [] [[0x0000#16]]).ctrl = .idle ∧ ∃ t, step (blank true [] [[0x0000#16]]) = .next t) :=
  ⟨⟨rfl, _, rfl⟩, ⟨{ blank true [some (.err 1)] [] with ctrl := .applying .reset 0#4 }, _, rfl, rfl⟩, ⟨rfl, _, rfl⟩⟩

theorem witness_BusyOnlyWhileTheBusIsSilent :
    (∃ t, step (waiting7 [none]) = .next t ∧ t.busy = true) ∧
    ∃ t, step (blank true [none] [[0x4033#16]]) = .next t ∧ t.busy = true := ⟨⟨_, rfl, rfl⟩, ⟨_, rfl, rfl⟩⟩

theorem witness_StepKeepsTheInvariant : (shown5 false [some .ok] [[0x4033#16]]).Inv ∧
    ∃ t, step (shown5 false [some .ok] [[0x4033#16]]) = .next t := ⟨shown5_inv _ _ _, _, rfl⟩

theorem witness_ConstructionMeetsTheInvariant : ∃ t, construct rot7 0#4 [] [some (.err 2)] [] 0 = .next t := ⟨_, rfl⟩

theorem witness_NoResponseDisagreesWithTheLines : (shown5 false [some .ok] [[0x4033#16]]).Inv ∧
    ∃ t r, step (shown5 false [some .ok] [[0x4033#16]]) = .next t ∧ t.dispValid = true ∧
      t.responses = (shown5 false [some .ok] [[0x4033#16]]).responses ++ [(0, r)] ∧ r.valid = true :=
  ⟨shown5_inv _ _ _, _, _, rfl, rfl, rfl, rfl⟩

theorem witness_ResponseWords : (Response.busError 15).legal 4 ∧ (Response.success 0#4).legal 0 :=
  ⟨.inr (.inr (.inr ⟨15, by decide, rfl⟩)), .inl ⟨_, rfl⟩⟩

theorem witness_HostSurface : (shown5 true [] []).dispValid = true ∧ (blank true [] []).dispValid = false := by decide

theorem witness_StepIsOneStateMachineTransition :
    (blank true [some (.err 1)] [[0x4033#16]]).ctrl = .idle ∧
    (blank true [some (.err 1)] [[0x4033#16]]).nextRequest = some (0, 0x4033#16) ∧
    ((blank true [some (.err 1)] [[0x4033#16]]).accept 0).busDraw = some (.err 1) ∧
    Operation.ofInstr (.err 1) (decode 0x4033#16) = some (.set false 0x33#8 (.err 1)) := by decide

/-- From an outstanding SET of 7, and from an idle core with a GET and a SET that the bus does not answer. -/
theorem witness_RunsLinearize :
    ((waiting7 [some .ok]).outstanding [(0, 0x4037#16)] ∧ ∃ t, Sys2Proof.core.run 1 (waiting7 [some .ok]) = .next t) ∧
    ((blank true [none] [[0x0000#16], [0x4033#16]]).outstanding [] ∧
      requestsTaken 2 (blank true [none] [[0x0000#16], [0x4033#16]]) = [(0, 0x0000#16), (1, 0x4033#16)] ∧
      ∃ t, Sys2Proof.core.run 2 (blank true [none] [[0x0000#16], [0x4033#16]]) = .next t ∧ t.busy = true) :=
  ⟨⟨⟨0x4037#16, false, 0x37#8, rfl, by decide, by decide⟩, _, rfl⟩, rfl, by decide, _, rfl, rfl⟩

theorem witness_EachRequestIsAnsweredOnce :
    ∃ t, Sys2Proof.core.run 2 (blank true [none] [[0x0000#16], [0x4033#16]]) = .next t ∧ t.owed 1 = 1 ∧
      (t.responsesTo 0).length = 1 ∧ t.requestsOf 1 = [] := ⟨_, rfl, rfl, rfl, rfl⟩

/-- No level is observed while an APPLY is outstanding; the levels are back when it is answered. -/
theorem test_observation_while_busy : (waiting7 []).observation.lines = none ∧
    nextHas (step (waiting7 [some (.err 1)])) (fun t => t.observation.lines == some 0x6D#8) = true := by decide

theorem witness_SilentBusOnlyDelaysSet :
    (blank true [] [[0x4033#16]]).ctrl = .idle ∧ (blank true [] [[0x4033#16]]).nextRequest = some (0, 0x4033#16) ∧
    decode 0x4033#16 = .set false 0x33#8 ∧ tokenSymbol (blank true [] []).cfg false 0x33#8 ≠ none := by decide

theorem witness_UnshownSymbolIsUnobservable : (blank true [] [[0x0000#16]]).dispValid = false := rfl

end Sys2Proof.Tests
end

section
namespace Sys2Proof.Machine

/-- The rest of the reset, like a step, keeps the configuration and the ROM, and leaves the display or shows a symbol. -/
theorem resetApply_effect {s t : State} (h : resetApply s = .next t) :
    t.cfg = s.cfg ∧ t.segRom = s.segRom ∧ (LeavesDisplay s t ∨ ShowsSymbol s t) := by
  unfold resetApply at h
  split at h
  · cases h
    exact ⟨rfl, rfl, .inl ⟨rfl, rfl, rfl, .inl rfl, .inl rfl⟩⟩
  · exact applySymbol_effect h

theorem run_keeps_cfg (n : Nat) (s t : State) (h : Sys2Proof.core.run n s = .next t) : t.cfg = s.cfg :=
  run_induction (P := fun s t => t.cfg = s.cfg) (fun _ => rfl)
    (fun _ _ _ hstep hrun => hrun.trans (step_effect hstep).1) n s t h

theorem construct_cfg {cfg : Config} {x : Symbol} {rs : List (List Word)} {as : List (Option BusAnswer)} {ts : List Nat}
    {d : Nat} {t : State} (h : construct cfg x rs as ts d = .next t) : t.cfg = cfg :=
  (resetApply_effect (construct_cases h).2).1

/-- Settles O39: a step keeps the configuration, so every run does (`run_induction`), and the APPLY that ends a reset keeps
the one the construction was asked for. -/
theorem parametersNeverChange : Obligations.ParametersNeverChange := by
  unfold Obligations.ParametersNeverChange
  exact ⟨run_keeps_cfg, fun _ _ _ _ _ _ _ => construct_cfg⟩

end Sys2Proof.Machine
end

section
namespace Sys2Proof.Machine

/-! ## What an unshown `disp_sym` can change (R16) -/

/-- The state with `x` in `disp_sym` and everything else as it is. -/
def State.withDispSym (x : Symbol) (s : State) : State :=
  { s with dispSym := x }

namespace State
variable (x : Symbol) (s : State)

theorem withDispSym_cfg : (s.withDispSym x).cfg = s.cfg := rfl

theorem withDispSym_respond (r : Response) : (s.withDispSym x).respond r = (s.respond r).withDispSym x := rfl

theorem withDispSym_afterDraw : (s.withDispSym x).afterDraw = s.afterDraw.withDispSym x := rfl

theorem withDispSym_logApply (e : ApplyEntry) : (s.withDispSym x).logApply e = (s.logApply e).withDispSym x := rfl

theorem withDispSym_accept (k : Nat) : (s.withDispSym x).accept k = (s.accept k).withDispSym x := rfl

theorem withDispSym_finish (o : Origin) (r : Response) :
    (s.withDispSym x).finish o r = (s.finish o r).withDispSym x := by
  cases o <;> rfl

theorem forgetUnshown_withDispSym {s : State} (hv : s.dispValid = false) :
    (s.withDispSym x).forgetUnshown = s.forgetUnshown := by
  simp [forgetUnshown, withDispSym, hv]

end State

/-- The bus's answer does not depend on `disp_sym`; an APPLY answered ok overwrites it, and any other leaves it unshown. -/
theorem forgetUnshown_showSymbol_withDispSym {s : State} (o : Origin) (sym : Symbol) (m : Mask) (x : Symbol)
    (hv : s.dispValid = false) :
    (showSymbol o sym m (s.withDispSym x)).forgetUnshown = (showSymbol o sym m s).forgetUnshown := by
  have hdraw : (s.withDispSym x).busDraw = s.busDraw := rfl
  rcases hb : s.busDraw with _ | (_ | e)
  · rw [showSymbol_silent o sym m hb, showSymbol_silent o sym m (hdraw.trans hb)]
    exact State.forgetUnshown_withDispSym (s := s.afterDraw.setCtrl (.applying o sym)) x hv
  · rw [showSymbol_ok o sym m hb, showSymbol_ok o sym m (hdraw.trans hb)]
    rfl
  · rw [showSymbol_err o sym m hb, showSymbol_err o sym m (hdraw.trans hb)]
    rw [State.withDispSym_afterDraw, State.withDispSym_logApply, State.withDispSym_finish, State.withDispSym_cfg]
    exact State.forgetUnshown_withDispSym x (by simp [hv])

theorem applySymbol_hides_dispSym {s : State} (o : Origin) (sym x : Symbol) (hv : s.dispValid = false) :
    mapNext State.forgetUnshown (applySymbol o sym (s.withDispSym x)) =
      mapNext State.forgetUnshown (applySymbol o sym s) := by
  obtain ⟨m, hm, ha⟩ := applySymbol_next o sym s
  have hmx : encodeMask (s.withDispSym x).segRom sym.toNat = some m := hm
  rw [ha, applySymbol_eq_of_encode hmx]
  exact congrArg Host.Outcome.next (forgetUnshown_showSymbol_withDispSym o sym m x hv)

theorem respond_hides_dispSym {s : State} (r : Response) (x : Symbol) (hv : s.dispValid = false) :
    mapNext State.forgetUnshown (.next ((s.withDispSym x).respond r)) =
      mapNext State.forgetUnshown (.next (s.respond r)) := by
  rw [State.withDispSym_respond]
  exact congrArg Host.Outcome.next (State.forgetUnshown_withDispSym (s := s.respond r) x hv)

/-- R76: while `disp_valid = 0` a GET answers the same whatever `disp_sym` holds. -/
theorem execGet_of_unshown {s : State} (hv : s.dispValid = false) :
    exec .get s = .next (s.respond Response.uninitialized) := by
  rw [execGet_eq, hv]
  rfl

theorem exec_hides_dispSym {s : State} (i : Instr) (x : Symbol) (hv : s.dispValid = false) :
    mapNext State.forgetUnshown (exec i (s.withDispSym x)) = mapNext State.forgetUnshown (exec i s) := by
  have hvx : (s.withDispSym x).dispValid = false := hv
  cases i with
  | get =>
    rw [execGet_of_unshown hv, execGet_of_unshown hvx]
    exact respond_hides_dispSym _ x hv
  | set te ch =>
    rcases htok : tokenSymbol s.cfg te ch with _ | sym
    · rw [execSet_of_rejected htok, execSet_of_rejected (s.withDispSym_cfg x ▸ htok)]
      exact respond_hides_dispSym _ x hv
    · rw [execSet_of_token htok, execSet_of_token (s.withDispSym_cfg x ▸ htok)]
      exact applySymbol_hides_dispSym .set sym x hv
  | reserved10 => rfl
  | reserved11 => rfl

/-- The core's choice of what to do next does not read `disp_sym`, so the two steps take the same branch. -/
theorem step_hides_dispSym {s : State} (x : Symbol) (hv : s.dispValid = false) :
    mapNext State.forgetUnshown (step (s.withDispSym x)) = mapNext State.forgetUnshown (step s) := by
  have hctrl : (s.withDispSym x).ctrl = s.ctrl := rfl
  have hnext : (s.withDispSym x).nextRequest = s.nextRequest := rfl
  rcases hc : s.ctrl with _ | ⟨o, sym⟩
  · rcases hn : s.nextRequest with _ | ⟨k, q⟩
    · rw [step_of_idle hc hn, step_of_idle (hctrl.trans hc) (hnext.trans hn)]
      exact congrArg Host.Outcome.next (State.forgetUnshown_withDispSym x hv)
    · rw [step_of_request hc hn, step_of_request (hctrl.trans hc) (hnext.trans hn), State.withDispSym_accept]
      exact exec_hides_dispSym (s := s.accept k) (decode q) x hv
  · rw [step_of_applying hc, step_of_applying (hctrl.trans hc)]
    exact applySymbol_hides_dispSym o sym x hv

/-- Settles O56: an unshown `disp_sym` steers no branch of a step and reaches no response (`step_hides_dispSym`), and GET
answers `Response.uninitialized` (`execGet_of_unshown`). -/
theorem unshownSymbolIsUnobservable : Obligations.UnshownSymbolIsUnobservable := by
  unfold Obligations.UnshownSymbolIsUnobservable
  exact fun s x hv => ⟨step_hides_dispSym x hv, Response.uninitialized, execGet_of_unshown hv, rfl, rfl⟩

end Sys2Proof.Machine
end

section
namespace Sys2Proof.Machine

/-- The construction starts from `blankInstance`, whose ROM lists no cell, and the rest of the reset keeps it. -/
theorem construct_segRom {cfg : Config} {x : Symbol} {rs : List (List Word)} {as : List (Option BusAnswer)}
    {ts : List Nat} {d : Nat} {t : State} (h : construct cfg x rs as ts d = .next t) : t.segRom = [] :=
  (resetApply_effect (construct_cases h).2).2.1

theorem step_segRom {s t : State} (h : step s = .next t) : t.segRom = s.segRom :=
  (step_effect h).2.1

/-- Settles O10: a step keeps the ROM (`step_segRom`), and a construction leaves it with no listed cell
(`construct_segRom`), which reads as the fixed table (`Memory.read_nil`). -/
theorem romNeverWritten : Obligations.RomNeverWritten := by
  unfold Obligations.RomNeverWritten
  constructor
  · intro s t h a
    rw [step_segRom h]
  · intro cfg x rs as ts d t h a
    rw [construct_segRom h, Memory.read_nil]

end Sys2Proof.Machine
end

section
namespace Sys2Proof

/-! ## The fields of a request word -/

@[simp] theorem opField_requestWord (op : BitVec 2) (te : Bool) (ch : Byte) : opField (requestWord op te ch) = op := by
  rw [opField, requestWord, BitVec.extractLsb'_append_eq_of_le (by decide),
    BitVec.extractLsb'_append_eq_of_le (by decide)]
  exact BitVec.extractLsb'_append_eq_left

@[simp] theorem teField_requestWord (op : BitVec 2) (te : Bool) (ch : Byte) : teField (requestWord op te ch) = te := by
  rw [teField, requestWord]
  simp only [BitVec.getLsbD_append]
  simp

@[simp] theorem chField_requestWord (op : BitVec 2) (te : Bool) (ch : Byte) : chField (requestWord op te ch) = ch :=
  BitVec.extractLsb'_append_eq_right

theorem opField_clearReserved (q : Word) : opField (q &&& 0xE0FF#16) = opField q := by
  rw [opField, BitVec.extractLsb'_and]
  exact BitVec.and_allOnes

theorem teField_clearReserved (q : Word) : teField (q &&& 0xE0FF#16) = teField q := by
  rw [teField, BitVec.getLsbD_and]
  exact Bool.and_true _

theorem chField_clearReserved (q : Word) : chField (q &&& 0xE0FF#16) = chField q := by
  rw [chField, BitVec.extractLsb'_and]
  exact BitVec.and_allOnes

/-- Field by field, the mask 0x1F00 keeps only `RSV`, which `requestWord` writes 0. -/
theorem requestWord_and_reserved (op : BitVec 2) (te : Bool) (ch : Byte) :
    requestWord op te ch &&& 0x1F00#16 = 0#16 := by
  change (op ++ BitVec.ofBool te ++ 0#5 ++ ch) &&& (0#2 ++ 0#1 ++ 0x1F#5 ++ 0#8) = 0#(2 + 1 + 5 + 8)
  simp only [BitVec.and_append, BitVec.and_zero, BitVec.zero_and]
  rfl

/-! ## The decoder and the encoder -/

/-- The decoder reads `OP`, `TE` and `CH` and nothing else (R48, R50). -/
theorem decode_congr {p q : Word} (hop : opField p = opField q) (hte : teField p = teField q)
    (hch : chField p = chField q) : decode p = decode q := by
  simp only [decode, hop, hte, hch]

theorem encode_eq_requestWord (i : Instr) : ∃ op te ch, encode i = requestWord op te ch := by
  cases i <;> exact ⟨_, _, _, rfl⟩

@[simp] theorem decode_encode_set (te : Bool) (ch : Byte) : decode (encode (.set te ch)) = .set te ch := by
  rw [encode, decode_of_op_set (opField_requestWord _ te ch), teField_requestWord, chField_requestWord]

/-- The decoded word is a request exactly when the high bit of `OP` is 0 (R49). -/
theorem wf_decode (q : Word) : (decode q).wf = !q.getLsbD 15 := by
  have hbit : (opField q).getLsbD 1 = q.getLsbD 15 := by simp [opField]
  rw [← hbit]
  rcases opField_cases q with ⟨h, -⟩ | ⟨h, -⟩ | ⟨h, -⟩ | ⟨h, -⟩
  · rw [decode_of_op_get h, h]
    rfl
  · rw [decode_of_op_set h, h]
    rfl
  · rw [decode_of_op_reserved10 h, h]
    rfl
  · rw [decode_of_op_reserved11 h, h]
    rfl

/-- Settles O5: clearing `RSV` keeps the three fields that the decoder reads (`decode_congr`), and the encoder writes every
word by `requestWord`. -/
theorem reservedBitsIgnored : Obligations.ReservedBitsIgnored := by
  unfold Obligations.ReservedBitsIgnored
  constructor
  · intro q
    exact (decode_congr (opField_clearReserved q) (teField_clearReserved q) (chField_clearReserved q)).symm
  · intro i
    obtain ⟨op, te, ch, hi⟩ := encode_eq_requestWord i
    rw [hi, requestWord_and_reserved]

/-- Settles O1: the decoder's four cases, by `OP` (Laws/Decode.lean). -/
theorem decodeByOperationField : Obligations.DecodeByOperationField := by
  unfold Obligations.DecodeByOperationField
  exact fun _ => ⟨decode_of_op_get, decode_of_op_set, decode_of_op_reserved10, decode_of_op_reserved11⟩

end Sys2Proof
end

section
namespace Sys2Proof.Machine

/-- A request has a next state in every state: GET only responds, and SET rejects its token or applies a symbol. -/
theorem exec_next_of_wf {i : Instr} (h : i.wf = true) (s : State) : ∃ t, exec i s = .next t := by
  cases i with
  | get => exact ⟨_, execGet_eq s⟩
  | set te ch =>
    rcases htok : tokenSymbol s.cfg te ch with _ | sym
    · exact ⟨_, execSet_of_rejected htok⟩
    · obtain ⟨m, -, ha⟩ := applySymbol_next .set sym s
      exact ⟨_, (execSet_of_token htok).trans ha⟩
  | reserved10 => exact nomatch h
  | reserved11 => exact nomatch h

/-- R49: the refusal of a word that is no request names its `OP`. -/
theorem exec_decode_of_not_wf {q : Word} (h : (decode q).wf = false) (s : State) :
    exec (decode q) s = .refused (.reservedOperation (opField q)) := by
  rcases opField_cases q with ⟨hop, -⟩ | ⟨hop, -⟩ | ⟨hop, -⟩ | ⟨hop, -⟩
  · rw [decode_of_op_get hop] at h
    exact nomatch h
  · rw [decode_of_op_set hop] at h
    exact nomatch h
  · rw [decode_of_op_reserved10 hop, hop]
    rfl
  · rw [decode_of_op_reserved11 hop, hop]
    rfl

/-- Settles O35: bit 15 says whether the word is a request (`wf_decode`); a request has a next state (`exec_next_of_wf`),
and any other word is refused with its `OP` (`exec_decode_of_not_wf`). -/
theorem reservedOperationsRefused : Obligations.ReservedOperationsRefused := by
  unfold Obligations.ReservedOperationsRefused
  intro s q
  constructor
  · intro hbit
    have hwf : (decode q).wf = false := by rw [wf_decode, hbit, Bool.not_true]
    exact ⟨hwf, exec_decode_of_not_wf hwf s⟩
  · intro hbit
    have hwf : (decode q).wf = true := by rw [wf_decode, hbit, Bool.not_false]
    exact ⟨hwf, exec_next_of_wf hwf s⟩

end Sys2Proof.Machine
end

section
namespace Sys2Proof.Machine

/-! ## The textual form of a symbol (R43) -/

theorem symbolChar_toNat_of_digit {s : Symbol} (h : s.toNat ≤ 9) : (symbolChar s).toNat = 0x30 + s.toNat := by
  have hle : s ≤ 9#4 := h
  rw [symbolChar, if_pos hle, BitVec.toNat_add, BitVec.toNat_setWidth]
  simp only [BitVec.toNat_ofNat]
  omega

theorem symbolChar_toNat_of_letter {s : Symbol} (h : 10 ≤ s.toNat) :
    (symbolChar s).toNat = 0x61 + (s.toNat - 10) := by
  have hgt : ¬ s ≤ 9#4 := fun hle => Nat.not_le_of_lt h (BitVec.le_def.1 hle)
  have hlt := s.isLt
  rw [symbolChar, if_neg hgt, BitVec.toNat_add, BitVec.toNat_sub, BitVec.toNat_setWidth]
  simp only [BitVec.toNat_ofNat]
  omega

theorem extractLsb'_eq_symbol {x : Byte} {s : Symbol} (h : x.toNat % 16 = s.toNat) : x.extractLsb' 0 4 = s := by
  apply BitVec.eq_of_toNat_eq
  rw [BitVec.extractLsb'_toNat, Nat.shiftRight_zero]
  exact h

/-- R42: a decimal digit's code, the first of PARSE's ranges. -/
theorem parse_of_digit {ch : Byte} {s : Symbol} (hs : s.toNat ≤ 9) (hch : ch.toNat = 0x30 + s.toNat) :
    parse false ch = some s := by
  have hvalue : (ch - 0x30#8).extractLsb' 0 4 = s := by
    apply extractLsb'_eq_symbol
    simp only [BitVec.toNat_sub, BitVec.toNat_ofNat]
    omega
  simp only [parse, BitVec.le_def, BitVec.toNat_ofNat]
  rw [if_neg Bool.false_ne_true, if_pos (by omega), hvalue]

/-- R42: a lower-case letter's code, above the ranges of the digits and of the upper-case letters. -/
theorem parse_of_lowerCase {ch : Byte} {s : Symbol} (hs : 10 ≤ s.toNat) (hch : ch.toNat = 0x61 + (s.toNat - 10)) :
    parse false ch = some s := by
  have hlt := s.isLt
  have hvalue : (ch - 0x61#8 + 10#8).extractLsb' 0 4 = s := by
    apply extractLsb'_eq_symbol
    simp only [BitVec.toNat_add, BitVec.toNat_sub, BitVec.toNat_ofNat]
    omega
  simp only [parse, BitVec.le_def, BitVec.toNat_ofNat]
  rw [if_neg Bool.false_ne_true, if_neg (by omega), if_neg (by omega), if_pos (by omega), hvalue]

@[simp] theorem parse_symbolChar (s : Symbol) : parse false (symbolChar s) = some s := by
  rcases Nat.lt_or_ge 9 s.toNat with h | h
  · exact parse_of_lowerCase h (symbolChar_toNat_of_letter h)
  · exact parse_of_digit h (symbolChar_toNat_of_digit h)

/-- Settles O13: the two ranges of `symbolChar`, each of which PARSE reads back (`parse_symbolChar`). -/
theorem textualFormOfSymbol : Obligations.TextualFormOfSymbol := by
  unfold Obligations.TextualFormOfSymbol
  exact fun s => ⟨symbolChar_toNat_of_digit, symbolChar_toNat_of_letter, parse_symbolChar s⟩

/-- A character's code added to SET's row match fills the word's low byte (R44, R56). -/
theorem set_word_eq_encode (ch : Byte) : 0x4000#16 + ch.setWidth 16 = encode (.set false ch) := by
  have happend : encode (.set false ch) = 0x40#8 ++ ch := rfl
  have hlt := ch.isLt
  apply BitVec.eq_of_toNat_eq
  rw [happend, BitVec.toNat_append, ← Nat.shiftLeft_add_eq_or_of_lt hlt, BitVec.toNat_add, BitVec.toNat_setWidth]
  simp only [BitVec.toNat_ofNat]
  omega

/-- Settles O14: `SHOW n` has the word of `SET 'c'` by definition; that word is the encoded SET (`set_word_eq_encode`), and
a token that parses gives its symbol in either mode. -/
theorem showExpandsToSet : Obligations.ShowExpandsToSet := by
  unfold Obligations.ShowExpandsToSet
  intro n
  refine ⟨rfl, ?_, fun cfg => (tokenSymbol_eq_some_iff cfg _ _ n).2 (.inl (parse_symbolChar n))⟩
  rw [AsmLine.word, set_word_eq_encode, Option.map_some, decode_encode_set]

end Sys2Proof.Machine
end

section
namespace Sys2Proof.Machine

/-! ## The words of `SEG_ROM` (R58 to R63) -/

theorem segRomTable_nodup : segRomTable.Nodup := by decide

/-- R60: bit 7, the decimal point's. -/
theorem getLsbD_seven_of_mem_segRomTable : ∀ w ∈ segRomTable, w.getLsbD 7 = false := by decide

theorem ne_blank_of_mem_segRomTable : ∀ w ∈ segRomTable, w ≠ 0x00#8 := by decide

theorem mem_segRomTable_of_encodeMask {m : Memory} {v : Nat} {w : Mask} (h : Memory.wf m = true)
    (hw : encodeMask m v = some w) : w ∈ segRomTable :=
  List.mem_of_getElem? ((encodeMask_of_wf h v).symm.trans hw)

/-- R26: the table has 16 words, so no address 16 or higher. -/
theorem encodeMask_eq_none_of_ge {m : Memory} (h : Memory.wf m = true) {a : Nat} (ha : 16 ≤ a) :
    encodeMask m a = none :=
  (encodeMask_of_wf h a).trans (List.getElem?_eq_none ha)

/-- R63: the table repeats no word, so equal words stand at equal indices. -/
theorem encodeMask_symbol_injective {m : Memory} (h : Memory.wf m = true) {a b : Symbol}
    (hab : encodeMask m a.toNat = encodeMask m b.toNat) : a = b := by
  rw [encodeMask_of_wf h, encodeMask_of_wf h] at hab
  exact BitVec.eq_of_toNat_eq ((List.getElem?_inj a.isLt segRomTable_nodup).1 hab)

/-- Settles O8: ENCODE gives words of the table (`mem_segRomTable_of_encodeMask`), and the invariant has every logged mask
among them (`ApplyEntry.legal`); none of them has bit 7. -/
theorem decimalPointNeverLit : Obligations.DecimalPointNeverLit := by
  unfold Obligations.DecimalPointNeverLit
  constructor
  · intro m s w hm hw
    exact getLsbD_seven_of_mem_segRomTable w (mem_segRomTable_of_encodeMask hm hw)
  · intro s hs e he
    obtain ⟨hmask, -, -⟩ := hs.log_legal e he
    exact getLsbD_seven_of_mem_segRomTable e.mask hmask

/-- Settles O9: the table repeats no word (`encodeMask_symbol_injective`), and each of its words has bit 7 clear and is not
blank. -/
theorem encodeIsInjective : Obligations.EncodeIsInjective := by
  unfold Obligations.EncodeIsInjective
  intro m a b hm
  refine ⟨encodeMask_symbol_injective hm, fun w hw => ?_⟩
  have hmem : w ∈ segRomTable := mem_segRomTable_of_encodeMask hm hw
  exact ⟨getLsbD_seven_of_mem_segRomTable w hmem, ne_blank_of_mem_segRomTable w hmem⟩

/-- Settles O7: a well-formed memory reads as the table (`encodeMask_of_wf`), whose 16 words are then compared one by one. -/
theorem romHoldsTheTable : Obligations.RomHoldsTheTable := by
  unfold Obligations.RomHoldsTheTable
  intro m hm
  constructor
  · have hread : encodeMask m = fun v => segRomTable[v]? := funext (encodeMask_of_wf hm)
    rw [hread]
    rfl
  · exact fun _ => encodeMask_eq_none_of_ge hm

end Sys2Proof.Machine
end

section
namespace Sys2Proof.Machine

/-! ## SET, by its token and the bus's answer (R70) -/

theorem tokenSymbol_of_recognized {cfg : Config} {te : Bool} {ch : Byte} (h : cfg.strict = false ∨ parse te ch ≠ none) :
    ∃ sym, tokenSymbol cfg te ch = some sym := by
  rcases htok : tokenSymbol cfg te ch with _ | sym
  · obtain ⟨hparse, hstrict⟩ := (tokenSymbol_eq_none_iff cfg te ch).1 htok
    rcases h with h | h
    · exact absurd (hstrict.symm.trans h) (by decide)
    · exact absurd hparse h
  · exact ⟨sym, rfl⟩

section
variable {s : State} {te : Bool} {ch : Byte} {sym : Symbol} {m : Mask}

theorem execSet_of_ok (htok : tokenSymbol s.cfg te ch = some sym) (hm : encodeMask s.segRom sym.toNat = some m)
    (hdraw : s.busDraw = some .ok) :
    exec (.set te ch) s = .next
      ((((s.afterDraw.logApply { mask := m, lines := drive s.cfg m, answer := .ok }).setLines
        (drive s.cfg m)).display sym).finish .set (Response.success sym)) := by
  rw [execSet_of_token htok, applySymbol_eq_of_encode hm, showSymbol_ok .set sym m hdraw]

theorem execSet_of_err {e : BusErr} (htok : tokenSymbol s.cfg te ch = some sym)
    (hm : encodeMask s.segRom sym.toNat = some m) (hdraw : s.busDraw = some (.err e)) :
    exec (.set te ch) s = .next
      ((s.afterDraw.logApply { mask := m, lines := drive s.cfg m, answer := .err e }).finish .set
        (Response.busError e)) := by
  rw [execSet_of_token htok, applySymbol_eq_of_encode hm, showSymbol_err .set sym m hdraw]

end

/-- Settles O26: the token decides between `execSet_of_rejected` and a symbol, and the bus's answer then between
`execSet_of_ok` and `execSet_of_err`. -/
theorem setFollowsItsRule : Obligations.SetFollowsItsRule := by
  unfold Obligations.SetFollowsItsRule
  intro s te ch
  constructor
  · intro hparse hstrict
    exact execSet_of_rejected ((tokenSymbol_eq_none_iff s.cfg te ch).2 ⟨hparse, hstrict⟩)
  · intro sym m hsym hm
    have htok : tokenSymbol s.cfg te ch = some sym := (tokenSymbol_eq_some_iff s.cfg te ch sym).2 hsym
    constructor
    · intro hdraw
      exact ⟨execSet_of_ok htok hm hdraw, success_word sym⟩
    · intro e hdraw
      exact ⟨execSet_of_err htok hm hdraw, congrArg Prod.fst (busError_seen e), rfl⟩

/-- Settles O34: the first SET keeps the configuration and the ROM, so the second finds the same symbol and the same ROM
word, and `execSet_of_ok` gives it the same effect. -/
theorem repeatedSetAppliesAgain : Obligations.RepeatedSetAppliesAgain := by
  unfold Obligations.RepeatedSetAppliesAgain
  intro s t te ch htoken hdraw hset hdraw'
  obtain ⟨sym, htok⟩ := tokenSymbol_of_recognized htoken
  obtain ⟨m, hm⟩ := encodeMask_symbol_isSome s.segRom sym
  rw [execSet_of_ok htok hm hdraw] at hset
  obtain rfl := Host.Outcome.next.inj hset
  refine ⟨_, { mask := m, lines := drive s.cfg m, answer := .ok }, execSet_of_ok (sym := sym) (m := m) ?_ ?_ hdraw',
    ?_, ?_, ?_, ?_, ?_⟩
  · simpa using htok
  · simpa using hm
  all_goals simp

/-- What a SET leaves alone when the bus answers its APPLY `err(e)`, or when strict mode rejects its token first. -/
theorem execSet_keeps_display {s t : State} {te : Bool} {ch : Byte} {e : BusErr} (hdraw : s.busDraw = some (.err e))
    (h : exec (.set te ch) s = .next t) :
    t.dispValid = s.dispValid ∧ t.dispSym = s.dispSym ∧ t.segRom = s.segRom ∧ t.lines = s.lines ∧
    (s.ctrl = .idle → t.ctrl = .idle) ∧ t.applyLog.length ≤ s.applyLog.length + 1 := by
  rcases htok : tokenSymbol s.cfg te ch with _ | sym
  · rw [execSet_of_rejected htok] at h
    obtain rfl := Host.Outcome.next.inj h
    simp
  · obtain ⟨m, hm⟩ := encodeMask_symbol_isSome s.segRom sym
    rw [execSet_of_err htok hm hdraw] at h
    obtain rfl := Host.Outcome.next.inj h
    simp

/-- Settles O33: nothing of the display changes (`execSet_keeps_display`), so GET responds alike; where the token has a
symbol, `execSet_of_err` gives the one log entry and the response. -/
theorem failedSetLeavesTheSymbol : Obligations.FailedSetLeavesTheSymbol := by
  unfold Obligations.FailedSetLeavesTheSymbol
  intro s t te ch e hdraw h
  obtain ⟨hvalid, hsym, hrom, hlines, hctrl, hlog⟩ := execSet_keeps_display hdraw h
  refine ⟨hvalid, hsym, hrom, hlines, hctrl, hlog, fun htoken => ?_,
    _, _, getResponse s.dispValid s.dispSym, execGet_eq t, execGet_eq s, ?_, rfl⟩
  · obtain ⟨sym, htok⟩ := tokenSymbol_of_recognized htoken
    obtain ⟨m, hm⟩ := encodeMask_symbol_isSome s.segRom sym
    rw [execSet_of_err htok hm hdraw] at h
    obtain rfl := Host.Outcome.next.inj h
    exact ⟨rfl, by simp, m, by simp⟩
  · rw [State.respond_responses, hvalid, hsym]

/-- Settles O27: a token with no symbol is rejected (`execSet_of_rejected`); word 0x20 is the response's. -/
theorem strictModeRejectsTheToken : Obligations.StrictModeRejectsTheToken := by
  unfold Obligations.StrictModeRejectsTheToken
  intro s te ch hstrict hparse
  have htok : tokenSymbol s.cfg te ch = none := (tokenSymbol_eq_none_iff s.cfg te ch).2 ⟨hparse, hstrict⟩
  exact ⟨execSet_of_rejected htok, by decide, rfl, rfl⟩

/-- Settles O28: both SETs go on with symbol 8, the one by substitution and the other by PARSE (`parse_of_digit`). -/
theorem compatibilityModeShowsEight : Obligations.CompatibilityModeShowsEight := by
  unfold Obligations.CompatibilityModeShowsEight
  intro s te ch hstrict hparse
  have htok : tokenSymbol s.cfg te ch = some 8#4 :=
    (tokenSymbol_eq_some_iff s.cfg te ch _).2 (.inr ⟨hparse, hstrict, rfl⟩)
  have hparse8 : parse false 0x38#8 = some 8#4 := parse_of_digit (by decide) rfl
  have htok8 : tokenSymbol s.cfg false 0x38#8 = some 8#4 := (tokenSymbol_eq_some_iff s.cfg _ _ _).2 (.inl hparse8)
  exact ⟨(execSet_of_token htok).trans (execSet_of_token htok8).symm, htok⟩

end Sys2Proof.Machine
end

section
namespace Sys2Proof.Machine

/-! ## The display between two APPLYs answered ok (R71, R75) -/

/-- The log has grown at its end, and if no new entry was answered ok then `DISP_STATE` is as it was. -/
def DisplayFollowsLog (s t : State) : Prop :=
  ∃ entries, t.applyLog = s.applyLog ++ entries ∧
    ((∀ e ∈ entries, e.answer ≠ .ok) → t.dispValid = s.dispValid ∧ t.dispSym = s.dispSym)

namespace DisplayFollowsLog

theorem refl (s : State) : DisplayFollowsLog s s :=
  ⟨[], (List.append_nil _).symm, fun _ => ⟨rfl, rfl⟩⟩

theorem trans {s t u : State} (hst : DisplayFollowsLog s t) (htu : DisplayFollowsLog t u) : DisplayFollowsLog s u := by
  obtain ⟨es, hlog, hkeep⟩ := hst
  obtain ⟨es', hlog', hkeep'⟩ := htu
  refine ⟨es ++ es', by rw [hlog', hlog, List.append_assoc], fun hfail => ?_⟩
  obtain ⟨hvalid, hsym⟩ := hkeep fun e he => hfail e (List.mem_append_left _ he)
  obtain ⟨hvalid', hsym'⟩ := hkeep' fun e he => hfail e (List.mem_append_right _ he)
  exact ⟨hvalid'.trans hvalid, hsym'.trans hsym⟩

theorem of_step {s t : State} (h : step s = .next t) : DisplayFollowsLog s t := by
  obtain ⟨-, -, ⟨hvalid, hsym, -, hlog, -⟩ | ⟨m, -, -, -, hlog, -⟩⟩ := step_effect h
  · rcases hlog with hlog | ⟨-, m, e, -, -, hlog⟩
    · exact ⟨[], by rw [hlog, List.append_nil], fun _ => ⟨hvalid, hsym⟩⟩
    · exact ⟨_, hlog, fun _ => ⟨hvalid, hsym⟩⟩
  · exact ⟨_, hlog, fun hfail => absurd rfl (hfail _ (List.mem_singleton_self _))⟩

theorem of_run {n : Nat} {s t : State} (h : Sys2Proof.core.run n s = .next t) : DisplayFollowsLog s t :=
  run_induction refl (fun _ _ _ hstep hrun => (of_step hstep).trans hrun) n s t h

end DisplayFollowsLog

/-- GET responds alike before and after a run that logs no APPLY answered ok. -/
theorem execGet_after_run {n : Nat} {s t : State} (hrun : Sys2Proof.core.run n s = .next t)
    (hfail : ∀ e ∈ t.applyLog.drop s.applyLog.length, e.answer ≠ .ok) :
    exec .get t = .next (t.respond (getResponse s.dispValid s.dispSym)) := by
  obtain ⟨es, hlog, hkeep⟩ := DisplayFollowsLog.of_run hrun
  rw [hlog, List.drop_left] at hfail
  obtain ⟨hvalid, hsym⟩ := hkeep hfail
  rw [execGet_eq, hvalid, hsym]

/-- Settles O25: the first GET leaves the display and the log as they were, so the run from it is one to which
`execGet_after_run` applies. -/
theorem getMayBeRepeated : Obligations.GetMayBeRepeated := by
  unfold Obligations.GetMayBeRepeated
  intro n s t u hget hrun hfail
  obtain rfl := Host.Outcome.next.inj hget
  exact ⟨_, getResponse s.dispValid s.dispSym, execGet_after_run hrun hfail, rfl, rfl⟩

/-- Settles O32: `execSet_of_ok` leaves the symbol shown, its lines driven and its mask logged last; GET reports the symbol
after any run with no further success (`execGet_after_run`). -/
theorem setThenGetReturnsTheSymbol : Obligations.SetThenGetReturnsTheSymbol := by
  unfold Obligations.SetThenGetReturnsTheSymbol
  intro n s te ch sym m hparse hm hdraw
  have htok : tokenSymbol s.cfg te ch = some sym := (tokenSymbol_eq_some_iff s.cfg te ch sym).2 (.inl hparse)
  refine ⟨_, execSet_of_ok htok hm hdraw, by simp, by simp, fun u hrun hfail => ?_⟩
  exact execGet_after_run hrun hfail

/-- R54: the word of a GET in Uninitialized. -/
theorem uninitialized_word : Response.uninitialized.word = 0x80#8 := by decide

/-- Settles O24: the response is `getResponse`, which reads `disp_sym` exactly when `disp_valid = 1`. -/
theorem getReportsDisplayState : Obligations.GetReportsDisplayState := by
  unfold Obligations.GetReportsDisplayState
  intro s
  refine ⟨getResponse s.dispValid s.dispSym, execGet_eq s, ?_⟩
  cases s.dispValid with
  | true => exact ⟨rfl, rfl, rfl, fun _ => ⟨rfl, rfl, success_word s.dispSym⟩, nofun⟩
  | false => exact ⟨rfl, rfl, rfl, nofun, fun _ => ⟨rfl, rfl, uninitialized_word⟩⟩

end Sys2Proof.Machine
end

section
namespace Sys2Proof.Machine

/-! ## The engine's state machine (R77) -/

/-- R77: a request performed with an answering bus is one row of the state machine, and completes. -/
theorem exec_stateMachine {s : State} {i : Instr} {a : BusAnswer} {op : Operation} (hidle : s.ctrl = .idle)
    (hdraw : s.busDraw = some a) (hop : Operation.ofInstr a i = some op) :
    ∃ t r, exec i s = .next t ∧ t.ctrl = .idle ∧ t.responses = s.responses ++ [(s.serving, r)] ∧
      stateMachine s.cfg.strict s.displayed op = (t.displayed, r.seen) := by
  cases i with
  | get =>
    obtain rfl := Option.some.inj hop
    exact ⟨_, _, execGet_eq s, hidle, rfl, stateMachine_get s _⟩
  | set te ch =>
    obtain rfl := Option.some.inj hop
    rcases htok : tokenSymbol s.cfg te ch with _ | sym
    · exact ⟨_, _, execSet_of_rejected htok, hidle, rfl, stateMachine_rejected _ a htok⟩
    · obtain ⟨m, hm⟩ := encodeMask_symbol_isSome s.segRom sym
      cases a with
      | ok => exact ⟨_, _, execSet_of_ok htok hm hdraw, rfl, rfl, stateMachine_ok _ htok⟩
      | err e => exact ⟨_, _, execSet_of_err htok hm hdraw, rfl, rfl, stateMachine_err _ e htok⟩
  | reserved10 => exact nomatch hop
  | reserved11 => exact nomatch hop

/-- Settles O53: an idle core's step is `exec` of the request taken up (`step_of_request`), and taking it up changes neither
`DISP_STATE` nor the responses (`exec_stateMachine`). -/
theorem stepIsOneStateMachineTransition : Obligations.StepIsOneStateMachineTransition := by
  unfold Obligations.StepIsOneStateMachineTransition
  intro s k q a op hidle hnext hdraw hop
  rw [step_of_request hidle hnext]
  exact exec_stateMachine (s := s.accept k) hidle hdraw hop

end Sys2Proof.Machine
end

section
namespace Sys2Proof.Machine

/-! ## The 22 codes (R64, R65) -/

/-- R42: an upper-case letter's code, above the range of the digits. -/
theorem parse_of_upperCase {ch : Byte} {s : Symbol} (hs : 10 ≤ s.toNat) (hch : ch.toNat = 0x41 + (s.toNat - 10)) :
    parse false ch = some s := by
  have hlt := s.isLt
  have hvalue : (ch - 0x41#8 + 10#8).extractLsb' 0 4 = s := by
    apply extractLsb'_eq_symbol
    simp only [BitVec.toNat_add, BitVec.toNat_sub, BitVec.toNat_ofNat]
    omega
  simp only [parse, BitVec.le_def, BitVec.toNat_ofNat]
  rw [if_neg Bool.false_ne_true, if_neg (by omega), if_pos (by omega), hvalue]

theorem toNat_lowNibble (x : Byte) : (x.extractLsb' 0 4).toNat = x.toNat % 16 := by
  rw [BitVec.extractLsb'_toNat, Nat.shiftRight_zero]

/-- Inversion of PARSE: a recognized code lies in one of the three ranges, which fixes its symbol. -/
theorem parse_cases {ch : Byte} {s : Symbol} (h : parse false ch = some s) :
    (0x30 ≤ ch.toNat ∧ ch.toNat ≤ 0x39 ∧ s.toNat = ch.toNat - 0x30) ∨
    (0x41 ≤ ch.toNat ∧ ch.toNat ≤ 0x46 ∧ s.toNat = ch.toNat - 0x41 + 10) ∨
    (0x61 ≤ ch.toNat ∧ ch.toNat ≤ 0x66 ∧ s.toNat = ch.toNat - 0x61 + 10) := by
  have hlt := ch.isLt
  rw [parse, if_neg Bool.false_ne_true] at h
  simp only [BitVec.le_def, BitVec.toNat_ofNat] at h
  split_ifs at h with hdigit hupper hlower
  · refine .inl ⟨hdigit.1, hdigit.2, ?_⟩
    rw [← Option.some.inj h, toNat_lowNibble, BitVec.toNat_sub, BitVec.toNat_ofNat]
    omega
  · refine .inr (.inl ⟨hupper.1, hupper.2, ?_⟩)
    rw [← Option.some.inj h, toNat_lowNibble, BitVec.toNat_add, BitVec.toNat_sub, BitVec.toNat_ofNat, BitVec.toNat_ofNat]
    omega
  · refine .inr (.inr ⟨hlower.1, hlower.2, ?_⟩)
    rw [← Option.some.inj h, toNat_lowNibble, BitVec.toNat_add, BitVec.toNat_sub, BitVec.toNat_ofNat, BitVec.toNat_ofNat]
    omega

/-- Settles O11: each range's codes parse to their symbols (`parse_of_digit`, `parse_of_upperCase`, `parse_of_lowerCase`),
and no other code is recognized (`parse_cases`). -/
theorem parseRecognizesTheCodes : Obligations.ParseRecognizesTheCodes := by
  unfold Obligations.ParseRecognizesTheCodes
  intro ch s
  refine ⟨rfl, parse_cases, ?_⟩
  rintro (⟨hlow, hhigh, hs⟩ | ⟨hlow, hhigh, hs⟩ | ⟨hlow, hhigh, hs⟩)
  · exact parse_of_digit (by omega) (by omega)
  · exact parse_of_upperCase (by omega) (by omega)
  · exact parse_of_lowerCase (by omega) (by omega)

/-- Settles O12: adding 0x20 takes an upper-case letter's code to the lower-case one, and both parse to the letter's symbol;
the empty token parses to none. -/
theorem parseIgnoresLetterCase : Obligations.ParseIgnoresLetterCase := by
  unfold Obligations.ParseIgnoresLetterCase
  intro ch hlow hhigh
  simp only [BitVec.le_def, BitVec.toNat_ofNat] at hlow hhigh
  obtain ⟨s, hs⟩ : ∃ s : Symbol, s.toNat = ch.toNat - 0x41 + 10 :=
    ⟨BitVec.ofNat 4 (ch.toNat - 0x41 + 10), by rw [BitVec.toNat_ofNat]; omega⟩
  have hlower : (ch + 0x20#8).toNat = ch.toNat + 0x20 := by
    rw [BitVec.toNat_add, BitVec.toNat_ofNat]
    omega
  have hupperParse : parse false ch = some s := parse_of_upperCase (by omega) (by omega)
  have hlowerParse : parse false (ch + 0x20#8) = some s := parse_of_lowerCase (by omega) (by omega)
  refine ⟨⟨s, hupperParse, hlowerParse, hs⟩, fun te => ?_⟩
  cases te with
  | true => rfl
  | false => exact hupperParse.trans hlowerParse.symm

end Sys2Proof.Machine
end

section
namespace Sys2Proof.Machine

/-! ## The line map (R81, R82) -/

/-- `lineMapOk` is R81's bijection: a list with no line twice whose lines all exist is, at full length, a permutation of the
lines. -/
theorem lineMapOk_iff_perm (cfg : Config) : cfg.lineMapOk = true ↔ cfg.lineMap.Perm (List.range cfg.nLines) := by
  simp only [Config.lineMapOk, Bool.and_eq_true, decide_eq_true_eq, List.all_eq_true]
  constructor
  · rintro ⟨⟨hlength, hlines⟩, hnodup⟩
    have hsubset : cfg.lineMap ⊆ List.range cfg.nLines := fun j hj => List.mem_range.2 (hlines j hj)
    exact (List.subperm_of_subset hnodup hsubset).perm_of_length_le (by rw [List.length_range, hlength])
  · intro hperm
    exact ⟨⟨hperm.length_eq.trans List.length_range, fun j hj => List.mem_range.1 (hperm.mem_iff.1 hj)⟩,
      hperm.nodup_iff.2 List.nodup_range⟩

theorem lineCountOk_iff (cfg : Config) : cfg.lineCountOk = true ↔ 1 ≤ cfg.nLines ∧ cfg.nLines ≤ 8 := by
  simp only [Config.lineCountOk, Bool.and_eq_true, decide_eq_true_eq]

theorem config_wf_iff_perm (cfg : Config) : cfg.wf = true ↔
    (1 ≤ cfg.nLines ∧ cfg.nLines ≤ 8) ∧ cfg.lineMap.Perm (List.range cfg.nLines) := by
  rw [Config.wf, Bool.and_eq_true, lineCountOk_iff, lineMapOk_iff_perm]

section
variable {cfg : Config} {i j k : Nat}

theorem lineOf_lt (hwf : cfg.wf = true) (hline : lineOf cfg i = some j) : i < cfg.nLines ∧ j < cfg.nLines := by
  obtain ⟨-, -, hlength, hlines, -⟩ := (config_wf_iff cfg).1 hwf
  obtain ⟨hi, -⟩ := List.getElem?_eq_some_iff.1 hline
  exact ⟨hlength ▸ hi, hlines j (List.mem_of_getElem? hline)⟩

theorem lineOf_injective (hwf : cfg.wf = true) (hi : lineOf cfg i = some j) (hk : lineOf cfg k = some j) : i = k := by
  obtain ⟨-, -, hlength, -, hnodup⟩ := (config_wf_iff cfg).1 hwf
  exact (List.getElem?_inj (hlength ▸ (lineOf_lt hwf hi).1) hnodup).1 (hi.trans hk.symm)

theorem exists_lineOf (hwf : cfg.wf = true) (hi : i < cfg.nLines) : ∃ j, lineOf cfg i = some j := by
  obtain ⟨-, -, hlength, -, -⟩ := (config_wf_iff cfg).1 hwf
  exact ⟨_, List.getElem?_eq_getElem (hlength ▸ hi)⟩

/-- `LINE_MAP` is onto: a permutation of the lines holds every line. -/
theorem exists_maskBit_of_line (hwf : cfg.wf = true) (hj : j < cfg.nLines) : ∃ i, lineOf cfg i = some j := by
  obtain ⟨-, hperm⟩ := (config_wf_iff_perm cfg).1 hwf
  exact List.mem_iff_getElem?.1 (hperm.mem_iff.2 (List.mem_range.2 hj))

end

/-- Settles O16: `LINE_MAP` is onto (`exists_maskBit_of_line`) and injective (`lineOf_injective`), and a step keeps the
configuration it stands in (`step_effect`). -/
theorem everyLineHasOneMaskBit : Obligations.EveryLineHasOneMaskBit := by
  unfold Obligations.EveryLineHasOneMaskBit
  constructor
  · intro cfg hwf j hj
    obtain ⟨i, hi⟩ := exists_maskBit_of_line hwf hj
    exact ⟨i, ⟨(lineOf_lt hwf hi).1, hi⟩, fun k hk => lineOf_injective hwf hk.2 hi⟩
  · intro s t h
    rw [(step_effect h).1]

/-- Settles O21: the construction checks the line count first and then the map, and its check of the map is R81's
(`lineMapOk_iff_perm`). -/
theorem constructRefusesBadLines : Obligations.ConstructRefusesBadLines := by
  unfold Obligations.ConstructRefusesBadLines
  intro cfg x rs as ts d
  constructor
  · intro hcount
    have hbad : ¬ cfg.lineCountOk = true := by rw [lineCountOk_iff]; omega
    rw [construct, if_neg hbad]
  · intro hlow hhigh hmap
    have hbad : ¬ cfg.lineMapOk = true := mt (lineMapOk_iff_perm cfg).1 hmap
    rw [construct, if_pos ((lineCountOk_iff cfg).2 ⟨hlow, hhigh⟩), if_neg hbad]

/-! ## DRIVE (R80) -/

section
variable {cfg : Config} {m m' : Mask} {lv : Lines} {i j : Nat}

theorem getLsbD_routeBit_of_line (hline : lineOf cfg i = some j) (hj : j < 8) :
    (routeBit cfg m lv i).getLsbD j = m.getLsbD i := by
  rw [routeBit, hline]
  exact (getLsbD_setLine lv j _ j).trans (if_pos ⟨rfl, hj⟩)

theorem getLsbD_routeBit_of_other_line (hline : lineOf cfg i ≠ some j) :
    (routeBit cfg m lv i).getLsbD j = lv.getLsbD j := by
  unfold routeBit
  split
  · rename_i k hk
    have hkj : j ≠ k := fun heq => hline (heq ▸ hk)
    rw [getLsbD_setLine, if_neg fun h => hkj h.1]
  · rfl

/-- The loop of R80 leaves a line alone that none of its mask bits drives. -/
theorem getLsbD_foldl_routeBit_of_other_lines {is : List Nat} (hother : ∀ i ∈ is, lineOf cfg i ≠ some j) :
    (is.foldl (routeBit cfg m) lv).getLsbD j = lv.getLsbD j := by
  induction is generalizing lv with
  | nil => rfl
  | cons i is ih =>
    obtain ⟨hi, his⟩ := List.forall_mem_cons.1 hother
    rw [List.foldl_cons, ih his, getLsbD_routeBit_of_other_line hi]

/-- The loop drives line `LINE_MAP(i)` in its round i, and no later round touches it. -/
theorem getLsbD_drive_of_line (hwf : cfg.wf = true) (hline : lineOf cfg i = some j) :
    (drive cfg m).getLsbD j = m.getLsbD i := by
  obtain ⟨hi, hj⟩ := lineOf_lt hwf hline
  obtain ⟨⟨-, hcount⟩, -⟩ := (config_wf_iff_perm cfg).1 hwf
  obtain ⟨before, after, hrange⟩ := List.append_of_mem (List.mem_range.2 hi)
  have hlater : ∀ k ∈ after, lineOf cfg k ≠ some j := by
    intro k hk hkj
    have hnodup : (before ++ i :: after).Nodup := hrange ▸ List.nodup_range
    exact (List.nodup_cons.1 hnodup.of_append_right).1 (lineOf_injective hwf hkj hline ▸ hk)
  rw [drive, hrange, List.foldl_append, List.foldl_cons, getLsbD_foldl_routeBit_of_other_lines hlater,
    getLsbD_routeBit_of_line hline (by omega)]

theorem getLsbD_drive_of_ge (hwf : cfg.wf = true) (hj : cfg.nLines ≤ j) : (drive cfg m).getLsbD j = false := by
  have hother : ∀ i ∈ List.range cfg.nLines, lineOf cfg i ≠ some j :=
    fun i _ hline => Nat.not_lt.2 hj (lineOf_lt hwf hline).2
  rw [drive, getLsbD_foldl_routeBit_of_other_lines hother, BitVec.getLsbD_zero]

theorem drive_congr (h : ∀ i, i < cfg.nLines → m'.getLsbD i = m.getLsbD i) : drive cfg m' = drive cfg m := by
  refine List.foldl_ext _ _ _ fun lv i hi => ?_
  rw [routeBit, routeBit, h i (List.mem_range.1 hi)]

end

/-- Settles O15: a mask bit's line exists and shows the bit (`getLsbD_drive_of_line`), no line from `N_LINES` on is set
(`getLsbD_drive_of_ge`), and DRIVE reads no mask bit from `N_LINES` on (`drive_congr`). -/
theorem driveRoutesMaskBits : Obligations.DriveRoutesMaskBits := by
  unfold Obligations.DriveRoutesMaskBits
  intro cfg hwf m
  refine ⟨fun i hi => ?_, fun j hj => getLsbD_drive_of_ge hwf hj, fun m' h => drive_congr h⟩
  obtain ⟨j, hline⟩ := exists_lineOf hwf hi
  exact ⟨j, hline, (lineOf_lt hwf hline).2, getLsbD_drive_of_line hwf hline⟩

/-! ## The identity map (R83, R84) -/

/-- With the identity map DRIVE cuts the mask off at `N_LINES`. -/
theorem getLsbD_drive_of_identity {cfg : Config} (m : Mask) (hcount : 1 ≤ cfg.nLines ∧ cfg.nLines ≤ 8)
    (hmap : cfg.lineMap = List.range cfg.nLines) (j : Nat) :
    (drive cfg m).getLsbD j = (decide (j < cfg.nLines) && m.getLsbD j) := by
  have hwf : cfg.wf = true := (config_wf_iff_perm cfg).2 ⟨hcount, hmap ▸ .refl _⟩
  rcases Nat.lt_or_ge j cfg.nLines with hj | hj
  · have hline : lineOf cfg j = some j := by rw [lineOf, hmap, List.getElem?_range hj]
    rw [getLsbD_drive_of_line hwf hline, decide_eq_true hj, Bool.true_and]
  · rw [getLsbD_drive_of_ge hwf hj, decide_eq_false (Nat.not_lt.2 hj), Bool.false_and]

theorem drive_eight_identity {cfg : Config} (m : Mask) (hcount : cfg.nLines = 8)
    (hmap : cfg.lineMap = [0, 1, 2, 3, 4, 5, 6, 7]) : drive cfg m = m := by
  apply BitVec.eq_of_getLsbD_eq
  intro j hj
  rw [getLsbD_drive_of_identity m (by omega) (by rw [hmap, hcount]; rfl), hcount, decide_eq_true hj, Bool.true_and]

theorem drive_seven_identity {cfg : Config} (m : Mask) (hcount : cfg.nLines = 7)
    (hmap : cfg.lineMap = [0, 1, 2, 3, 4, 5, 6]) : drive cfg m = m &&& 0x7F#8 := by
  have hlow : ∀ j, j < 8 → (0x7F#8).getLsbD j = decide (j < 7) := by decide
  apply BitVec.eq_of_getLsbD_eq
  intro j hj
  rw [getLsbD_drive_of_identity m (by omega) (by rw [hmap, hcount]; rfl), hcount, BitVec.getLsbD_and, hlow j hj,
    Bool.and_comm]

/-- R84: a ROM word lights nothing above segment g. -/
theorem and_low_of_mem_segRomTable : ∀ m ∈ segRomTable, m &&& 0x7F#8 = m := by decide

/-- Settles O17: the identity map cuts the mask off at `N_LINES` (`drive_eight_identity`, `drive_seven_identity`), and a ROM
word has nothing there to lose. -/
theorem driveWithTheIdentityMap : Obligations.DriveWithTheIdentityMap := by
  unfold Obligations.DriveWithTheIdentityMap
  intro cfg m
  constructor
  · intro hcount hmap
    rw [drive_eight_identity m hcount hmap]
    exact ⟨rfl, getLsbD_seven_of_mem_segRomTable m⟩
  · intro hcount hmap
    rw [drive_seven_identity m hcount hmap]
    exact ⟨rfl, and_low_of_mem_segRomTable m⟩

end Sys2Proof.Machine
end

section
namespace Sys2Proof.Machine

/-! ## The reset-time APPLY (R106, R108) -/

theorem State.busy_of_idle {s : State} (h : s.ctrl = .idle) : s.busy = false := by
  rw [State.busy, h]

theorem construct_of_wf {cfg : Config} (hwf : cfg.wf = true) (x : Symbol) (rs : List (List Word))
    (as : List (Option BusAnswer)) (ts : List Nat) (d : Nat) :
    construct cfg x rs as ts d = resetApply (blankInstance cfg x rs as ts d) := by
  obtain ⟨hcount, hmap⟩ := (Bool.and_eq_true_iff (x := cfg.lineCountOk)).1 hwf
  rw [construct, if_pos hcount, if_pos hmap]

theorem resetApply_of_initSymbol {s : State} {sym : Symbol} (h : s.cfg.initSymbol = some sym) :
    resetApply s = applySymbol .reset sym s := by
  rw [resetApply, h]

section
variable {cfg : Config} {sym : Symbol} {m : Mask} (hwf : cfg.wf = true) (hinit : cfg.initSymbol = some sym)
  (hm : segRomTable[sym.toNat]? = some m) (x : Symbol) (rs : List (List Word)) (as : List (Option BusAnswer))
  (ts : List Nat) (d : Nat)
include hwf hinit hm

/-- R108: with `INIT_SYMBOL = some s` the reset is the APPLY of ROM word s, on a blank instance and for no requester. -/
theorem construct_of_initSymbol :
    construct cfg x rs as ts d = .next (showSymbol .reset sym m (blankInstance cfg x rs as ts d)) := by
  have hrom : encodeMask (blankInstance cfg x rs as ts d).segRom sym.toNat = some m := hm
  rw [construct_of_wf hwf, resetApply_of_initSymbol hinit, applySymbol_eq_of_encode hrom]

/-- R24, second column. -/
theorem construct_of_initSymbol_ok :
    ∃ t, construct cfg x rs (some .ok :: as) ts d = .next t ∧
      t.ctrl = .idle ∧ t.responses = [] ∧ t.answers = as ∧ t.segRom = [] ∧
      t.dispValid = true ∧ t.dispSym = sym ∧ t.lines = some (drive cfg m) ∧
      t.applyLog = [{ mask := m, lines := drive cfg m, answer := .ok }] := by
  have hdraw : (blankInstance cfg x rs (some .ok :: as) ts d).busDraw = some .ok :=
    State.busDraw_of_scripted _ (some .ok) as rfl
  refine ⟨_, construct_of_initSymbol hwf hinit hm x rs _ ts d, ?_⟩
  rw [showSymbol_ok .reset sym m hdraw]
  simp [blankInstance]

/-- R24, third column; the error code has the width of the bus's (R9). -/
theorem construct_of_initSymbol_err (e : BusErr) :
    ∃ t, construct cfg x rs (some (.err e) :: as) ts d = .next t ∧
      t.ctrl = .idle ∧ t.responses = [] ∧ t.answers = as ∧ t.segRom = [] ∧
      t.dispValid = false ∧ t.lines = none ∧
      t.applyLog = [{ mask := m, lines := drive cfg m, answer := .err (e % 2 ^ cfg.busErrW) }] := by
  have hdraw : (blankInstance cfg x rs (some (.err e) :: as) ts d).busDraw = some (.err (e % 2 ^ cfg.busErrW)) :=
    State.busDraw_of_scripted _ (some (.err e)) as rfl
  refine ⟨_, construct_of_initSymbol hwf hinit hm x rs _ ts d, ?_⟩
  rw [showSymbol_err .reset sym m hdraw]
  simp [blankInstance]

end

/-- Settles O19: the reset is one APPLY on a blank instance, and the bus's answer decides between R24's second column
(`construct_of_initSymbol_ok`) and its third (`construct_of_initSymbol_err`). -/
theorem constructAppliesInitSymbol : Obligations.ConstructAppliesInitSymbol := by
  unfold Obligations.ConstructAppliesInitSymbol
  intro cfg x rs a as ts d sym m hwf hinit hm
  cases a with
  | ok =>
    obtain ⟨t, ht, hctrl, hresponses, hanswers, hrom, hshown⟩ := construct_of_initSymbol_ok hwf hinit hm x rs as ts d
    exact ⟨t, ht, State.busy_of_idle hctrl, hresponses, hanswers, fun b => by rw [hrom, Memory.read_nil],
      fun _ => hshown, nofun⟩
  | err e =>
    obtain ⟨t, ht, hctrl, hresponses, hanswers, hrom, hblank⟩ := construct_of_initSymbol_err hwf hinit hm x rs as ts d e
    refine ⟨t, ht, State.busy_of_idle hctrl, hresponses, hanswers, fun b => by rw [hrom, Memory.read_nil], nofun, ?_⟩
    rintro _ ⟨⟩
    exact hblank

end Sys2Proof.Machine
end

section
namespace Sys2Proof

/-! ## The decoder and the encoder against each other (R44 to R50) -/

/-- Settles O3: the encoder writes the fields that the decoder reads (`opField_requestWord`, `decode_encode_set`). -/
theorem decodeEncodeRoundTrip : Obligations.DecodeEncodeRoundTrip := by
  unfold Obligations.DecodeEncodeRoundTrip
  intro i
  cases i with
  | get => exact decode_of_op_get (opField_requestWord _ _ _)
  | set te ch => exact decode_encode_set te ch
  | reserved10 => exact decode_of_op_reserved10 (opField_requestWord _ _ _)
  | reserved11 => exact decode_of_op_reserved11 (opField_requestWord _ _ _)

/-- R44: a word is its fields `OP`, `TE`, `RSV` and `CH`, side by side. -/
theorem word_eq_append_fields (q : Word) :
    q = opField q ++ BitVec.ofBool (teField q) ++ q.extractLsb' 8 5 ++ chField q := by
  have hte : BitVec.ofBool (teField q) = q.extractLsb' 13 1 := by
    apply BitVec.eq_of_getLsbD_eq
    intro i hi
    obtain rfl : i = 0 := by omega
    simp [teField]
  rw [hte, opField, chField, BitVec.extractLsb'_append_extractLsb'_eq_extractLsb' (by decide),
    BitVec.extractLsb'_append_extractLsb'_eq_extractLsb' (by decide),
    BitVec.extractLsb'_append_extractLsb'_eq_extractLsb' (by decide)]
  exact BitVec.extractLsb'_eq_self.symm

/-- Writing a word's own fields again clears `RSV` and nothing else. -/
theorem requestWord_fields (q : Word) : requestWord (opField q) (teField q) (chField q) = q &&& 0xE0FF#16 := by
  conv_rhs => rw [word_eq_append_fields q]
  change _ = (opField q ++ BitVec.ofBool (teField q) ++ q.extractLsb' 8 5 ++ chField q) &&&
    (BitVec.allOnes 2 ++ BitVec.allOnes 1 ++ 0#5 ++ BitVec.allOnes 8)
  simp only [BitVec.and_append, BitVec.and_allOnes, BitVec.and_zero, requestWord]

/-- Settles O4: of a SET the encoder writes the word's own fields (`requestWord_fields`); of any other word the row's match,
which is what the mask 0xC000 leaves (`opField_cases`). -/
theorem encodeDecodeKeepsMeaningBits : Obligations.EncodeDecodeKeepsMeaningBits := by
  unfold Obligations.EncodeDecodeKeepsMeaningBits
  intro q
  rcases opField_cases q with ⟨hop, hand⟩ | ⟨hop, -⟩ | ⟨hop, hand⟩ | ⟨hop, hand⟩
  · rw [decode_of_op_get hop]
    exact hand.symm
  · rw [decode_of_op_set hop, encode, ← hop]
    exact requestWord_fields q
  · rw [decode_of_op_reserved10 hop]
    exact hand.symm
  · rw [decode_of_op_reserved11 hop]
    exact hand.symm

/-- Every row's mask is 0xC000, so what that mask leaves of the word selects the rows that match it. -/
theorem matchingRows_eq (q : Word) :
    opcodeTable.filter (fun r => r.matchesWord q) = opcodeTable.filter (fun r => q &&& 0xC000#16 == r.pattern) :=
  rfl

/-- Settles O6: the word under the mask 0xC000 is one row's pattern and no other's, and decides the operation
(`opField_cases`). -/
theorem opcodeTablePartition : Obligations.OpcodeTablePartition := by
  unfold Obligations.OpcodeTablePartition
  intro q
  rw [matchingRows_eq]
  rcases opField_cases q with ⟨hop, hand⟩ | ⟨hop, hand⟩ | ⟨hop, hand⟩ | ⟨hop, hand⟩
  · rw [decode_of_op_get hop, hand]
    rfl
  · rw [decode_of_op_set hop, hand]
    rfl
  · rw [decode_of_op_reserved10 hop, hand]
    rfl
  · rw [decode_of_op_reserved11 hop, hand]
    rfl

/-- Settles O2: eight closed words. -/
theorem sampleWordsDecode : Obligations.SampleWordsDecode := by
  unfold Obligations.SampleWordsDecode
  decide

end Sys2Proof
end

section
namespace Sys2Proof.Machine

/-! ## The invariant of an instance (R5, R22, R23, R27, R54, R88, R90) -/

@[simp] theorem lastApplied_append_ok (log : List ApplyEntry) (m : Mask) (lv : Lines) :
    lastApplied (log ++ [{ mask := m, lines := lv, answer := .ok }]) = some lv := by
  simp [lastApplied]

@[simp] theorem lastApplied_append_err (log : List ApplyEntry) (m : Mask) (lv : Lines) (e : BusErr) :
    lastApplied (log ++ [{ mask := m, lines := lv, answer := .err e }]) = lastApplied log := by
  simp [lastApplied]

theorem getResponse_legal (w : Nat) (dispValid : Bool) (dispSym : Symbol) :
    (getResponse dispValid dispSym).legal w := by
  cases dispValid with
  | true => exact .inl ⟨dispSym, rfl⟩
  | false => exact .inr (.inl rfl)

/-- R90: the entry of an APPLY of a ROM word, whose error code the bus's width bounds. -/
theorem ApplyEntry.legal_of_encodeMask {s : State} (hs : s.Inv) {v : Nat} {m : Mask} {a : BusAnswer}
    (hm : encodeMask s.segRom v = some m) (ha : ∀ c, a = .err c → c < 2 ^ s.cfg.busErrW) :
    ApplyEntry.legal s.cfg { mask := m, lines := drive s.cfg m, answer := a } :=
  ⟨mem_segRomTable_of_encodeMask hs.rom_wf hm, rfl, ha⟩

section
variable {s t : State} (hs : s.Inv) (hcfg : t.cfg = s.cfg) (hrom : t.segRom = s.segRom)
include hs hcfg hrom

theorem inv_of_leavesDisplay (h : LeavesDisplay s t) : t.Inv := by
  obtain ⟨hvalid, hsym, hlines, hlog, hresponses⟩ := h
  have hshown : t.displayed = s.displayed := by simp only [State.displayed, hvalid, hsym]
  refine ⟨hcfg ▸ hs.cfg_wf, hrom ▸ hs.rom_wf, ?_, ?_, ?_, ?_⟩
  · rw [State.consistent, hlines, hshown, hrom, hcfg]
    exact hs.consistent
  · rcases hlog with hlog | ⟨sym, m, e, -, -, hlog⟩
    · rw [hlines, hlog, hs.lines_last]
    · rw [hlines, hlog, lastApplied_append_err, hs.lines_last]
  · rw [hcfg]
    rcases hlog with hlog | ⟨sym, m, e, hm, he, hlog⟩
    · exact hlog ▸ hs.log_legal
    · have hnew := ApplyEntry.legal_of_encodeMask hs hm (a := .err e) fun c hc => BusAnswer.err.inj hc ▸ he
      exact hlog ▸ List.forall_mem_append.2 ⟨hs.log_legal, List.forall_mem_singleton.2 hnew⟩
  · rw [hcfg]
    rcases hresponses with hr | ⟨k, hr⟩ | ⟨k, hr⟩ | ⟨k, e, he, hr⟩ <;> rw [hr]
    · exact hs.responses_legal
    · exact List.forall_mem_append.2 ⟨hs.responses_legal, List.forall_mem_singleton.2 (getResponse_legal _ _ _)⟩
    · exact List.forall_mem_append.2 ⟨hs.responses_legal, List.forall_mem_singleton.2 (.inr (.inr (.inl rfl)))⟩
    · exact List.forall_mem_append.2 ⟨hs.responses_legal, List.forall_mem_singleton.2 (.inr (.inr (.inr ⟨e, he, rfl⟩)))⟩

theorem inv_of_showsSymbol (h : ShowsSymbol s t) : t.Inv := by
  obtain ⟨m, hm, hvalid, hlines, hlog, hresponses⟩ := h
  refine ⟨hcfg ▸ hs.cfg_wf, hrom ▸ hs.rom_wf, ?_, ?_, ?_, ?_⟩
  · simp [State.consistent, State.displayed, hvalid, hlines, hrom, hcfg, hm]
  · rw [hlines, hlog, lastApplied_append_ok]
  · rw [hcfg, hlog]
    have hnew := ApplyEntry.legal_of_encodeMask hs hm (a := .ok) nofun
    exact List.forall_mem_append.2 ⟨hs.log_legal, List.forall_mem_singleton.2 hnew⟩
  · rw [hcfg]
    rcases hresponses with hr | ⟨k, hr⟩ <;> rw [hr]
    · exact hs.responses_legal
    · exact List.forall_mem_append.2 ⟨hs.responses_legal, List.forall_mem_singleton.2 (.inl ⟨t.dispSym, rfl⟩)⟩

end

/-- The invariant is kept by whatever keeps the configuration and the ROM and either leaves the display or shows a symbol. -/
theorem inv_of_effect {s t : State} (hs : s.Inv)
    (h : t.cfg = s.cfg ∧ t.segRom = s.segRom ∧ (LeavesDisplay s t ∨ ShowsSymbol s t)) : t.Inv := by
  obtain ⟨hcfg, hrom, heffect | heffect⟩ := h
  · exact inv_of_leavesDisplay hs hcfg hrom heffect
  · exact inv_of_showsSymbol hs hcfg hrom heffect

/-- Settles O47: a step leaves the display or shows a symbol (`step_effect`), and either keeps the invariant. -/
theorem stepKeepsTheInvariant : Obligations.StepKeepsTheInvariant := by
  unfold Obligations.StepKeepsTheInvariant
  exact fun _ _ hs hstep => inv_of_effect hs (step_effect hstep)

theorem blankInstance_inv {cfg : Config} (hwf : cfg.wf = true) (x : Symbol) (rs : List (List Word))
    (as : List (Option BusAnswer)) (ts : List Nat) (d : Nat) : (blankInstance cfg x rs as ts d).Inv where
  cfg_wf := hwf
  rom_wf := Memory.wf_nil
  consistent := rfl
  lines_last := rfl
  log_legal := nofun
  responses_legal := nofun

/-- Settles O49: a construction has a legal configuration and is the rest of the reset on a blank instance
(`construct_cases`), which keeps the invariant as a step does. -/
theorem constructionMeetsTheInvariant : Obligations.ConstructionMeetsTheInvariant := by
  unfold Obligations.ConstructionMeetsTheInvariant
  intro cfg x rs as ts d t h
  obtain ⟨hwf, hreset⟩ := construct_cases h
  exact inv_of_effect (blankInstance_inv hwf x rs as ts d) (resetApply_effect hreset)

theorem construct_atReset : construct Config.atReset 0#4 [] [] [] 0 = .next State.reset := rfl

/-- Settles O22: by evaluation of the construction (`construct_atReset`) and of the fields of its state. -/
theorem resetStateIsConstructed : Obligations.ResetStateIsConstructed := by
  unfold Obligations.ResetStateIsConstructed
  exact ⟨construct_atReset, rfl, rfl, rfl, rfl⟩

/-- Settles O48: State.reset is a constructed instance (`construct_atReset`), and every such instance meets the invariant. -/
theorem resetMeetsTheInvariant : Obligations.ResetMeetsTheInvariant := by
  unfold Obligations.ResetMeetsTheInvariant
  exact constructionMeetsTheInvariant _ _ _ _ _ _ _ construct_atReset

/-! ## What the invariant says of the lines (R23, R33) -/

/-- R23: while `disp_valid = 1` the lines hold `DRIVE(ROM[disp_sym])`. -/
theorem State.Inv.lines_of_valid {s : State} (hs : s.Inv) (hvalid : s.dispValid = true) :
    ∃ m, segRomTable[s.dispSym.toNat]? = some m ∧ s.lines = some (drive s.cfg m) := by
  obtain ⟨m, hm⟩ := encodeMask_symbol_isSome s.segRom s.dispSym
  refine ⟨m, (encodeMask_of_wf hs.rom_wf _).symm.trans hm, ?_⟩
  have hlines := hs.consistent
  rw [State.consistent, State.displayed, if_pos hvalid, Option.bind_some, hm] at hlines
  exact hlines

/-- R33 (c): a response of a step with `VALID = 1` names the symbol displayed after the step. -/
theorem newResponse_names_displayed {s t : State} (hstep : step s = .next t) {k : Nat} {r : Response}
    (hr : t.responses = s.responses ++ [(k, r)]) (hvalid : r.valid = true) :
    t.dispValid = true ∧ t.dispSym = r.sym := by
  obtain ⟨-, -, ⟨hv, hsym, -, -, hresponses⟩ | ⟨m, -, hv, -, -, hresponses⟩⟩ := step_effect hstep
  · rw [hr] at hresponses
    rcases hresponses with h | ⟨j, h⟩ | ⟨j, h⟩ | ⟨j, e, -, h⟩
    · simp at h
    · obtain ⟨rfl, rfl⟩ : k = j ∧ r = getResponse s.dispValid s.dispSym := by simpa using h
      rw [hv, hsym]
      cases hd : s.dispValid with
      | true => exact ⟨rfl, rfl⟩
      | false => exact absurd hvalid (by simp [getResponse, hd, Response.uninitialized])
    · obtain ⟨rfl, rfl⟩ : k = j ∧ r = Response.invalidSymbol := by simpa using h
      exact nomatch hvalid
    · obtain ⟨rfl, rfl⟩ : k = j ∧ r = Response.busError e := by simpa using h
      exact nomatch hvalid
  · rw [hr] at hresponses
    rcases hresponses with h | ⟨j, h⟩
    · simp at h
    · obtain ⟨rfl, rfl⟩ : k = j ∧ r = Response.success t.dispSym := by simpa using h
      exact ⟨hv, rfl⟩

/-- Settles O50: the state after the step meets the invariant, which says what the lines hold (`State.Inv.lines_of_valid`), and
a response with `VALID = 1` names the symbol that this state displays (`newResponse_names_displayed`). -/
theorem noResponseDisagreesWithTheLines : Obligations.NoResponseDisagreesWithTheLines := by
  unfold Obligations.NoResponseDisagreesWithTheLines
  intro s t hs hstep
  have ht : t.Inv := stepKeepsTheInvariant s t hs hstep
  refine ⟨ht.lines_of_valid, fun k r hr hvalid => ?_⟩
  obtain ⟨hshown, hsym⟩ := newResponse_names_displayed hstep hr hvalid
  exact hsym ▸ ht.lines_of_valid hshown

end Sys2Proof.Machine
end

section
namespace Sys2Proof.Machine

/-! ## DISP_STATE over a step (R17, R18) -/

/-- Settles O37: the two effects of a step (`step_effect`); the one that shows a symbol logs an entry answered ok. -/
theorem displayStateWrittenOnlyByApply : Obligations.DisplayStateWrittenOnlyByApply := by
  unfold Obligations.DisplayStateWrittenOnlyByApply
  intro s t hstep
  obtain ⟨-, -, ⟨hvalid, hsym, hlines, -, -⟩ | ⟨m, hm, hvalid, hlines, hlog, -⟩⟩ := step_effect hstep
  · exact .inl ⟨hvalid, hsym, hlines⟩
  · exact .inr ⟨_, hlog, rfl, hvalid, hm, rfl, hlines⟩

theorem step_keeps_dispValid {s t : State} (hstep : step s = .next t) (hvalid : s.dispValid = true) :
    t.dispValid = true := by
  obtain ⟨-, -, ⟨hkeep, -⟩ | ⟨-, -, hshown, -⟩⟩ := step_effect hstep
  · exact hkeep.trans hvalid
  · exact hshown

/-- Settles O38: no step clears `disp_valid` (`step_keeps_dispValid`), so no run does. -/
theorem dispValidNeverCleared : Obligations.DispValidNeverCleared := by
  unfold Obligations.DispValidNeverCleared
  exact run_induction (P := fun s t => s.dispValid = true → t.dispValid = true) (fun _ => id)
    fun _ _ _ hstep hrun hvalid => hrun (step_keeps_dispValid hstep hvalid)

end Sys2Proof.Machine
end

section
namespace Sys2Proof.Machine

/-! ## What an APPLY does to the sequencer, and its frame (R21, R116) -/

/-- The frame of an APPLY, whatever the bus does. -/
theorem showSymbol_frame (o : Origin) (sym : Symbol) (m : Mask) (s : State) :
    (showSymbol o sym m s).cfg = s.cfg ∧ (showSymbol o sym m s).segRom = s.segRom ∧
      (showSymbol o sym m s).requesters = s.requesters ∧ (showSymbol o sym m s).turns = s.turns ∧
      (showSymbol o sym m s).serving = s.serving := by
  rcases showSymbol_cases o sym m s with ⟨-, hs⟩ | ⟨-, hs⟩ | ⟨e, -, -, hs⟩ <;> rw [hs] <;> simp

/-- An APPLY waits with the symbol pending while the bus is silent; otherwise its operation ends, which responds with
a success or a bus error. -/
theorem showSymbol_sequencer (o : Origin) (sym : Symbol) (m : Mask) (s : State) :
    (s.busDraw = none ∧ (showSymbol o sym m s).ctrl = .applying o sym ∧
      (showSymbol o sym m s).responses = s.responses) ∨
    ((showSymbol o sym m s).ctrl = .idle ∧
      ∃ r, r.err ≠ .outOfRange ∧ (showSymbol o sym m s).responses = (s.finish o r).responses) := by
  rcases showSymbol_cases o sym m s with ⟨hdraw, hs⟩ | ⟨-, hs⟩ | ⟨e, -, -, hs⟩ <;> rw [hs]
  · exact .inl ⟨hdraw, rfl, rfl⟩
  · refine .inr ⟨by simp, Response.success sym, nofun, ?_⟩
    cases o <;> rfl
  · refine .inr ⟨by simp, Response.busError e, nofun, ?_⟩
    cases o <;> rfl

theorem showSymbol_applyLog (o : Origin) (sym : Symbol) (m : Mask) (s : State) :
    (showSymbol o sym m s).applyLog = s.applyLog ∨ ∃ e, (showSymbol o sym m s).applyLog = s.applyLog ++ [e] := by
  rcases showSymbol_cases o sym m s with ⟨-, hs⟩ | ⟨-, hs⟩ | ⟨e, -, -, hs⟩ <;> rw [hs]
  · exact .inl rfl
  · exact .inr ⟨_, State.finish_applyLog _ o _⟩
  · exact .inr ⟨_, State.finish_applyLog _ o _⟩

/-! ## One request (R70, R74) -/

theorem getResponse_err (dispValid : Bool) (dispSym : Symbol) : (getResponse dispValid dispSym).err = .none := by
  cases dispValid <;> rfl

/-- The frame of a request. -/
theorem exec_frame {i : Instr} {s t : State} (h : exec i s = .next t) :
    t.cfg = s.cfg ∧ t.segRom = s.segRom ∧ t.requesters = s.requesters ∧ t.turns = s.turns ∧ t.serving = s.serving := by
  rcases exec_next_cases h with ⟨-, rfl⟩ | ⟨te, ch, -, -, rfl⟩ | ⟨te, ch, sym, m, -, -, -, rfl⟩
  · exact ⟨rfl, rfl, rfl, rfl, rfl⟩
  · exact ⟨rfl, rfl, rfl, rfl, rfl⟩
  · exact showSymbol_frame .set sym m s

/-- A request is answered and leaves the sequencer as it was or idle, or it is a SET that the silent bus leaves pending. -/
theorem exec_sequencer {i : Instr} {s t : State} (h : exec i s = .next t) :
    ((t.ctrl = s.ctrl ∨ t.ctrl = .idle) ∧
      ∃ r, r.err ≠ .outOfRange ∧ t.responses = s.responses ++ [(s.serving, r)]) ∨
    (s.busDraw = none ∧ t.responses = s.responses ∧ ∃ sym, t.ctrl = .applying .set sym) := by
  rcases exec_next_cases h with ⟨-, rfl⟩ | ⟨te, ch, -, -, rfl⟩ | ⟨te, ch, sym, m, -, -, -, rfl⟩
  · exact .inl ⟨.inl rfl, _, by simp [getResponse_err], rfl⟩
  · exact .inl ⟨.inl rfl, Response.invalidSymbol, by decide, rfl⟩
  · rcases showSymbol_sequencer .set sym m s with ⟨hdraw, hctrl, hresponses⟩ | ⟨hctrl, r, herr, hresponses⟩
    · exact .inr ⟨hdraw, hresponses, sym, hctrl⟩
    · exact .inl ⟨.inr hctrl, r, herr, hresponses⟩

theorem exec_applyLog {i : Instr} {s t : State} (h : exec i s = .next t) :
    t.applyLog = s.applyLog ∨ ∃ e, t.applyLog = s.applyLog ++ [e] := by
  rcases exec_next_cases h with ⟨-, rfl⟩ | ⟨te, ch, -, -, rfl⟩ | ⟨te, ch, sym, m, -, -, -, rfl⟩
  · exact .inl rfl
  · exact .inl rfl
  · exact showSymbol_applyLog .set sym m s

/-- Settles O36: the frame (`exec_frame`) with what a request adds to the responses (`exec_sequencer`) and to the log
(`exec_applyLog`); a GET is its response (`execGet_eq`). -/
theorem requestFrame : Obligations.RequestFrame := by
  unfold Obligations.RequestFrame
  constructor
  · intro i s t h
    obtain ⟨hcfg, hrom, hrequesters, hturns, hserving⟩ := exec_frame h
    refine ⟨hcfg, hrom, fun a => by rw [hrom], hrequesters, hturns, hserving, ?_, exec_applyLog h⟩
    rcases exec_sequencer h with ⟨-, r, -, hresponses⟩ | ⟨-, hresponses, -⟩
    · exact .inr ⟨r, hresponses⟩
    · exact .inl hresponses
  · intro s t h
    obtain rfl := Host.Outcome.next.inj ((execGet_eq s).symm.trans h)
    exact ⟨rfl, rfl, rfl, rfl, rfl, rfl, rfl⟩

/-- Settles O30: a SET is a request, so it has a next state (`exec_next_of_wf`), and its response, if there is one, is no
OUT_OF_RANGE (`exec_sequencer`). -/
theorem setAlwaysHasANextState : Obligations.SetAlwaysHasANextState := by
  unfold Obligations.SetAlwaysHasANextState
  intro s te ch
  obtain ⟨t, ht⟩ := exec_next_of_wf (i := .set te ch) rfl s
  refine ⟨t, ht, fun p hp => ?_⟩
  rcases exec_sequencer ht with ⟨-, r, herr, hresponses⟩ | ⟨-, hresponses, -⟩ <;> rw [hresponses] at hp
  · rcases List.mem_append.1 hp with hp | hp
    · exact .inl hp
    · exact .inr (List.mem_singleton.1 hp ▸ herr)
  · exact .inl hp

/-! ## One step (R12, R109, R112) -/

/-- Settles O42: an outstanding APPLY goes on (`applySymbol_next`), an idle core with no request stays, and a request taken
up has a next state (`exec_next_of_wf`) or is refused with its `OP` (`exec_decode_of_not_wf`). -/
theorem stepOutcomes : Obligations.StepOutcomes := by
  unfold Obligations.StepOutcomes
  intro s
  rcases hc : s.ctrl with _ | ⟨o, sym⟩
  · rcases hn : s.nextRequest with _ | ⟨k, q⟩
    · exact .inl ⟨s, step_of_idle hc hn⟩
    · rw [step_of_request hc hn]
      rcases hwf : (decode q).wf with _ | _
      · have hbit : q.getLsbD 15 = true := by simpa [wf_decode] using hwf
        exact .inr ⟨k, q, rfl, rfl, hbit, exec_decode_of_not_wf hwf _⟩
      · exact .inl (exec_next_of_wf hwf _)
  · obtain ⟨m, -, happly⟩ := applySymbol_next o sym s
    exact .inl ⟨_, (step_of_applying hc).trans happly⟩

/-- Settles O45: while busy a step is an APPLY (`showSymbol_frame`, `showSymbol_sequencer`); while idle it holds the state or
performs the request taken up (`exec_frame`, `exec_sequencer`). -/
theorem oneOperationAtATime : Obligations.OneOperationAtATime := by
  unfold Obligations.OneOperationAtATime
  constructor
  · intro s t o sym hc hstep
    rw [step_of_applying hc] at hstep
    obtain ⟨m, -, rfl⟩ := applySymbol_cases hstep
    obtain ⟨-, -, hrequesters, hturns, hserving⟩ := showSymbol_frame o sym m s
    refine ⟨hrequesters, hturns, hserving, ?_⟩
    rcases showSymbol_sequencer o sym m s with ⟨-, hctrl, hresponses⟩ | ⟨hctrl, r, -, hresponses⟩
    · exact .inl ⟨hctrl.trans hc.symm, hresponses⟩
    · refine .inr ⟨hctrl, ?_, ?_⟩
      · rintro rfl
        exact hresponses
      · rintro rfl
        exact ⟨r, hresponses⟩
  · intro s t hc hstep
    rcases hn : s.nextRequest with _ | ⟨k, q⟩
    · rw [step_of_idle hc hn] at hstep
      exact .inl ⟨(Host.Outcome.next.inj hstep).symm, rfl⟩
    · rw [step_of_request hc hn] at hstep
      obtain ⟨-, -, hrequesters, -, hserving⟩ := exec_frame hstep
      refine .inr ⟨k, q, rfl, hrequesters, hserving, ?_⟩
      rcases exec_sequencer hstep with ⟨hctrl, r, -, hresponses⟩ | ⟨-, hresponses, sym, hctrl⟩
      · exact .inl ⟨hctrl.elim (fun h => h.trans hc) id, r, hresponses⟩
      · exact .inr ⟨sym, hctrl, hresponses⟩

/-- A reset-time APPLY that is outstanding after a step was outstanding before it: no request is a reset. -/
theorem applying_reset_of_step {s t : State} (hstep : step s = .next t) {sym : Symbol}
    (ht : t.ctrl = .applying .reset sym) : s.ctrl = .applying .reset sym := by
  rcases hc : s.ctrl with _ | ⟨o, sym'⟩
  · rcases oneOperationAtATime.2 s t hc hstep with ⟨rfl, -⟩ | ⟨k, q, -, -, -, ⟨hctrl, -⟩ | ⟨sym', hctrl, -⟩⟩
    · exact hc.symm.trans ht
    · exact nomatch hctrl.symm.trans ht
    · exact nomatch hctrl.symm.trans ht
  · obtain ⟨-, -, -, ⟨hctrl, -⟩ | ⟨hctrl, -⟩⟩ := oneOperationAtATime.1 s t o sym' hc hstep
    · exact hc.symm.trans (hctrl.symm.trans ht)
    · exact nomatch hctrl.symm.trans ht

theorem step_responses {s t : State} (hstep : step s = .next t) : ∃ rs, t.responses = s.responses ++ rs := by
  obtain ⟨-, -, ⟨-, -, -, -, h⟩ | ⟨-, -, -, -, -, h⟩⟩ := step_effect hstep
  · rcases h with h | ⟨k, h⟩ | ⟨k, h⟩ | ⟨k, e, -, h⟩
    · exact ⟨[], by rw [h, List.append_nil]⟩
    · exact ⟨_, h⟩
    · exact ⟨_, h⟩
    · exact ⟨_, h⟩
  · rcases h with h | ⟨k, h⟩
    · exact ⟨[], by rw [h, List.append_nil]⟩
    · exact ⟨_, h⟩

/-- Settles O23: a step starts no reset-time APPLY (`applying_reset_of_step`), adds to the log and to the responses at
their end (`DisplayFollowsLog.of_step`, `step_responses`) and keeps `disp_valid = 1`. -/
theorem noStepResetsTheCore : Obligations.NoStepResetsTheCore := by
  unfold Obligations.NoStepResetsTheCore
  intro s t hstep
  obtain ⟨entries, hlog, -⟩ := DisplayFollowsLog.of_step hstep
  exact ⟨fun _ => applying_reset_of_step hstep, ⟨entries, hlog⟩, step_responses hstep, step_keeps_dispValid hstep⟩

theorem State.busy_of_applying {s : State} {o : Origin} {sym : Symbol} (h : s.ctrl = .applying o sym) :
    s.busy = true := by
  rw [State.busy, h]

theorem State.ctrl_ne_idle_of_busy {s : State} (h : s.busy = true) : s.ctrl ≠ .idle :=
  fun hidle => Bool.false_ne_true ((State.busy_of_idle hidle).symm.trans h)

/-- Settles O46: an APPLY that the bus answers ends idle (`showSymbol_sequencer`, `exec_sequencer`), and an idle core with no
request stays idle. -/
theorem busyOnlyWhileTheBusIsSilent : Obligations.BusyOnlyWhileTheBusIsSilent := by
  unfold Obligations.BusyOnlyWhileTheBusIsSilent
  intro s t hstep hbusy
  have hnot := State.ctrl_ne_idle_of_busy hbusy
  rcases step_next_cases hstep with ⟨o, sym, m, hc, -, rfl⟩ | ⟨hc, -, rfl⟩ | ⟨k, q, hc, hn, hexec⟩
  · rcases showSymbol_sequencer o sym m s with ⟨hdraw, -⟩ | ⟨hctrl, -⟩
    · exact .inl ⟨State.busy_of_applying hc, hdraw⟩
    · exact absurd hctrl hnot
  · exact absurd hc hnot
  · rcases exec_sequencer hexec with ⟨hctrl, -⟩ | ⟨hdraw, -⟩
    · exact absurd (hctrl.elim (fun h => h.trans hc) id) hnot
    · exact .inr ⟨State.busy_of_idle hc, k, q, hn, hdraw⟩

end Sys2Proof.Machine
end

section
namespace Sys2Proof.Machine

/-! ## The request port (R34, R112, R114) -/

/-- The port's first waiting request is one of some requester; requesters count from `k`. -/
theorem getElem?_of_firstWaiting {rs : List (List Word)} {k j : Nat} {q : Word}
    (h : firstWaiting rs k = some (j, q)) : ∃ i qs, j = k + i ∧ rs[i]? = some (q :: qs) := by
  induction rs generalizing k with
  | nil => exact nomatch h
  | cons p ps ih =>
    cases p with
    | nil =>
      obtain ⟨i, qs, rfl, hi⟩ := ih (k := k + 1) h
      exact ⟨i + 1, qs, by omega, hi⟩
    | cons w ws =>
      obtain ⟨rfl, rfl⟩ : k = j ∧ w = q := by simpa [firstWaiting] using h
      exact ⟨0, ws, rfl, rfl⟩

theorem State.nextRequest_of_waiting {s : State} {q : Word} (h : waitingWord s.requesters s.turn = some q) :
    s.nextRequest = some (s.turn, q) := by
  rw [State.nextRequest, h]

/-- The request taken up is the first one of its requester's list. -/
theorem State.getElem?_of_nextRequest {s : State} {k : Nat} {q : Word} (h : s.nextRequest = some (k, q)) :
    ∃ qs, s.requesters[k]? = some (q :: qs) := by
  rcases hw : waitingWord s.requesters s.turn with _ | w
  · rw [State.nextRequest, hw] at h
    obtain ⟨i, qs, hk, hi⟩ := getElem?_of_firstWaiting h
    obtain rfl : k = i := hk.trans (Nat.zero_add i)
    exact ⟨qs, hi⟩
  · obtain ⟨rfl, rfl⟩ : s.turn = k ∧ w = q := by simpa [State.nextRequest_of_waiting hw] using h
    exact waitingWord_eq_some.1 hw

/-- Settles O44: a scripted choice of a waiting requester is followed (`State.nextRequest_of_waiting`); what is taken up is a
requester's first (`State.getElem?_of_nextRequest`); nothing is taken up only from an empty port. -/
theorem anyWaitingRequesterMayBeNext : Obligations.AnyWaitingRequesterMayBeNext := by
  unfold Obligations.AnyWaitingRequesterMayBeNext
  refine ⟨fun s k q qs ts h => ?_, fun _ _ _ => State.getElem?_of_nextRequest, fun s => s.nextRequest_eq_none.1⟩
  exact State.nextRequest_of_waiting (s := { s with turns := k :: ts }) (waitingWord_eq_some.2 ⟨qs, h⟩)

/-- Settles O43: an empty port gives the core nothing to take up (`State.nextRequest_eq_none`). -/
theorem idleCoreHoldsItsState : Obligations.IdleCoreHoldsItsState := by
  unfold Obligations.IdleCoreHoldsItsState
  exact fun s hidle hempty => step_of_idle hidle (s.nextRequest_eq_none.2 hempty)

/-- Settles O40: the step is `exec` of the decoded word (`step_of_request`) at the state in which it has been accepted. -/
theorem stepRunsTheDecodedRequest : Obligations.StepRunsTheDecodedRequest := by
  unfold Obligations.StepRunsTheDecodedRequest
  rintro s k q i hidle hnext rfl
  exact step_of_request hidle hnext

theorem tableWord_sixteen (w : Nat) : tableWord 16 w = BitVec.ofNat 16 w :=
  BitVec.eq_of_toNat_eq (by simp [tableWord])

theorem getElem?_issueFirst (q : Word) (rs : List (List Word)) : ∃ qs, (issueFirst q rs)[0]? = some (q :: qs) := by
  cases rs with
  | nil => exact ⟨[], rfl⟩
  | cons p ps => exact ⟨p, rfl⟩

theorem modify_tail_issueFirst (q : Word) (rs : List (List Word)) :
    (issueFirst q rs).modify 0 List.tail = if rs = [] then [[]] else rs := by
  cases rs <;> rfl

theorem withFetchWord_nextRequest (s : State) (nbits w : Nat) :
    (s.withFetchWord nbits w).nextRequest = some (0, tableWord nbits w) :=
  State.nextRequest_of_waiting (s := s.withFetchWord nbits w)
    (waitingWord_eq_some.2 (getElem?_issueFirst (tableWord nbits w) s.requesters))

theorem withFetchWord_accept (s : State) (nbits w : Nat) :
    (s.withFetchWord nbits w).accept 0 = { s with
      ctrl := .idle
      serving := 0
      requesters := if s.requesters = [] then [[]] else s.requesters } := by
  rw [← modify_tail_issueFirst (tableWord nbits w)]
  rfl

/-- Settles O41: the word is what the idle core takes up (`withFetchWord_nextRequest`), and its acceptance leaves the port
and the choices as they were before it was put there (`withFetchWord_accept`). -/
theorem fetchWordRunsNext : Obligations.FetchWordRunsNext := by
  unfold Obligations.FetchWordRunsNext
  intro s w
  rw [step_of_request rfl (withFetchWord_nextRequest s 16 w), withFetchWord_accept, tableWord_sixteen]

end Sys2Proof.Machine
end

section
namespace Sys2Proof.Machine

/-! ## The bus's draws (R87, R116) -/

/-- The bus carries an answer of its width unchanged (R9). -/
theorem map_answerOfWidth_of_lt {w : Nat} {a : Option BusAnswer} (h : ∀ e, a = some (.err e) → e < 2 ^ w) :
    a.map (answerOfWidth w) = a := by
  rcases a with _ | (_ | e)
  · rfl
  · rfl
  · rw [Option.map_some, answerOfWidth, Nat.mod_eq_of_lt (h e rfl)]

/-- A scripted draw is used up by taking it off the script. -/
theorem State.afterDraw_of_scripted {s : State} {a : Option BusAnswer} {as : List (Option BusAnswer)}
    (h : s.answers = a :: as) : s.afterDraw = { s with answers := as } := by
  rw [State.afterDraw, h]
  rfl

/-- Settles O31: a scripted draw is what the APPLY gets (`State.busDraw_of_scripted`), unchanged by the bus's width
(`map_answerOfWidth_of_lt`), and is used up (`State.afterDraw_of_scripted`). -/
theorem everyBusAnswerIsAdmitted : Obligations.EveryBusAnswerIsAdmitted := by
  unfold Obligations.EveryBusAnswerIsAdmitted
  intro s a as hwidth
  exact ⟨(State.busDraw_of_scripted _ a as rfl).trans (map_answerOfWidth_of_lt hwidth), State.afterDraw_of_scripted rfl⟩

/-- A silent bus leaves the symbol pending, and nothing but the draw has changed. -/
theorem applySymbol_silent {s : State} (o : Origin) (sym : Symbol) (h : s.busDraw = none) :
    applySymbol o sym s = .next (s.afterDraw.setCtrl (.applying o sym)) := by
  obtain ⟨m, -, happly⟩ := applySymbol_next o sym s
  rw [happly, showSymbol_silent o sym m h]

/-- An APPLY does not read the sequencer's state, and every way to end it writes that state. -/
theorem applySymbol_setCtrl (o : Origin) (sym : Symbol) (c : Ctrl) (s : State) :
    applySymbol o sym (s.setCtrl c) = applySymbol o sym s := by
  obtain ⟨m, hm, happly⟩ := applySymbol_next o sym s
  have hmc : encodeMask (s.setCtrl c).segRom sym.toNat = some m := hm
  have hdraw : (s.setCtrl c).busDraw = s.busDraw := rfl
  rw [happly, applySymbol_eq_of_encode hmc]
  refine congrArg Host.Outcome.next ?_
  rcases hb : s.busDraw with _ | (_ | e)
  · rw [showSymbol_silent o sym m hb, showSymbol_silent o sym m (hdraw.trans hb)]
    rfl
  · rw [showSymbol_ok o sym m hb, showSymbol_ok o sym m (hdraw.trans hb)]
    cases o <;> rfl
  · rw [showSymbol_err o sym m hb, showSymbol_err o sym m (hdraw.trans hb)]
    cases o <;> rfl

/-- Settles O29: the token has the symbol, and a silent bus leaves its APPLY pending (`applySymbol_silent`). -/
theorem setWaitsForTheBus : Obligations.SetWaitsForTheBus := by
  unfold Obligations.SetWaitsForTheBus
  intro s te ch sym hsym hdraw
  rw [execSet_of_token ((tokenSymbol_eq_some_iff s.cfg te ch sym).2 hsym)]
  exact applySymbol_silent .set sym hdraw

/-! ## Waiting for the bus (R116) -/

/-- The state with the given script of answers, in which the APPLY of `sym` is outstanding. -/
def State.pending (o : Origin) (sym : Symbol) (as : List (Option BusAnswer)) (s : State) : State :=
  { s with answers := as, ctrl := .applying o sym }

section
variable (o : Origin) (sym : Symbol) (as : List (Option BusAnswer)) (s : State)

theorem step_pending : step (s.pending o sym as) = applySymbol o sym { s with answers := as } :=
  (step_of_applying rfl).trans (applySymbol_setCtrl o sym (.applying o sym) { s with answers := as })

/-- A silent draw leaves the APPLY outstanding and uses up the draw. -/
theorem applySymbol_of_silent_script :
    applySymbol o sym { s with answers := none :: as } = .next (s.pending o sym as) := by
  rw [applySymbol_silent o sym (State.busDraw_of_scripted _ none as rfl), State.afterDraw_of_scripted rfl]
  rfl

/-- While the bus is silent the run only uses up the draws. -/
theorem run_pending (n : Nat) :
    Sys2Proof.core.run (n + 1) (s.pending o sym (List.replicate n none ++ as)) = step (s.pending o sym as) := by
  induction n with
  | zero => exact run_one _
  | succ n ih =>
    have hstep := (step_pending o sym (none :: (List.replicate n none ++ as)) s).trans
      (applySymbol_of_silent_script o sym _ s)
    exact (run_of_next (n + 1) hstep).trans ih

end

/-- A run depends on its first state only through that state's step. -/
theorem run_succ_congr {s t : State} (n : Nat) (h : step s = step t) :
    Sys2Proof.core.run (n + 1) s = Sys2Proof.core.run (n + 1) t := by
  have hcore : Sys2Proof.core.step s = Sys2Proof.core.step t := h
  simp only [Host.Core.run, hcore]

/-- Settles O55: a SET's first step is the step of the APPLY it issues, taken as outstanding (`step_pending`), whatever the
script of answers; and a run of outstanding APPLYs only uses up the silent draws (`run_pending`). -/
theorem silentBusOnlyDelaysSet : Obligations.SilentBusOnlyDelaysSet := by
  unfold Obligations.SilentBusOnlyDelaysSet
  intro n s k q te ch a as hidle hnext hdecode htoken
  obtain ⟨sym, htok⟩ := Option.ne_none_iff_exists'.1 htoken
  have hfirst (script : List (Option BusAnswer)) :
      step { s with answers := script } = step ((s.accept k).pending .set sym script) := by
    rw [step_of_request (s := { s with answers := script }) hidle hnext, hdecode, step_pending]
    exact execSet_of_token htok
  rw [run_succ_congr n (hfirst _), hfirst, run_pending]

/-- Settles O20: the silent draw leaves the reset-time APPLY outstanding on the blank instance
(`applySymbol_of_silent_script`), whose next step is the APPLY of the construction with the rest of the script
(`step_pending`). -/
theorem constructWaitsForTheBus : Obligations.ConstructWaitsForTheBus := by
  unfold Obligations.ConstructWaitsForTheBus
  intro cfg x rs a as ts d sym hwf hinit
  have hconstruct (script : List (Option BusAnswer)) : construct cfg x rs script ts d =
      applySymbol .reset sym { blankInstance cfg x rs [] ts d with answers := script } :=
    (construct_of_wf hwf x rs script ts d).trans (resetApply_of_initSymbol hinit)
  refine ⟨(blankInstance cfg x rs [] ts d).pending .reset sym (some a :: as), ?_, rfl, rfl, rfl, rfl, ?_⟩
  · rw [hconstruct, applySymbol_of_silent_script]
  · rw [hconstruct, step_pending]

/-- Settles O18: with no initial symbol the construction is the blank instance itself. -/
theorem constructUninitialized : Obligations.ConstructUninitialized := by
  unfold Obligations.ConstructUninitialized
  intro cfg x rs as ts d hwf hinit
  refine ⟨blankInstance cfg x rs as ts d, ?_, rfl, rfl, rfl, rfl, rfl, Memory.read_nil, rfl, rfl, rfl⟩
  have hblank : (blankInstance cfg x rs as ts d).cfg.initSymbol = none := hinit
  rw [construct_of_wf hwf, resetApply, hblank]

end Sys2Proof.Machine
end

section
namespace Sys2Proof.Machine

/-! ## The line levels are written and never read (R22) -/

/-- The state with its line levels forgotten. -/
def State.forgetLines (s : State) : State :=
  { s with lines := none }

theorem State.forgetLines_finish (o : Origin) (r : Response) (s : State) :
    (s.finish o r).forgetLines = s.forgetLines.finish o r := by
  cases o <;> rfl

/-- The bus's answer does not depend on the levels, and what it changes in the rest of the state does not either. -/
theorem forgetLines_showSymbol (o : Origin) (sym : Symbol) (m : Mask) (s : State) :
    (showSymbol o sym m s.forgetLines).forgetLines = (showSymbol o sym m s).forgetLines := by
  have hdraw : s.forgetLines.busDraw = s.busDraw := rfl
  rcases hb : s.busDraw with _ | (_ | e)
  · rw [showSymbol_silent o sym m hb, showSymbol_silent o sym m (hdraw.trans hb)]
    rfl
  · rw [showSymbol_ok o sym m hb, showSymbol_ok o sym m (hdraw.trans hb), State.forgetLines_finish,
      State.forgetLines_finish]
    rfl
  · rw [showSymbol_err o sym m hb, showSymbol_err o sym m (hdraw.trans hb), State.forgetLines_finish,
      State.forgetLines_finish]
    rfl

theorem applySymbol_forgetLines (o : Origin) (sym : Symbol) (s : State) :
    mapNext State.forgetLines (applySymbol o sym s.forgetLines) = mapNext State.forgetLines (applySymbol o sym s) := by
  obtain ⟨m, hm, happly⟩ := applySymbol_next o sym s
  have hmf : encodeMask s.forgetLines.segRom sym.toNat = some m := hm
  rw [happly, applySymbol_eq_of_encode hmf]
  exact congrArg Host.Outcome.next (forgetLines_showSymbol o sym m s)

theorem exec_forgetLines (i : Instr) (s : State) :
    mapNext State.forgetLines (exec i s.forgetLines) = mapNext State.forgetLines (exec i s) := by
  cases i with
  | get => rfl
  | set te ch =>
    have hcfg : s.forgetLines.cfg = s.cfg := rfl
    rcases htok : tokenSymbol s.cfg te ch with _ | sym
    · rw [execSet_of_rejected htok, execSet_of_rejected (hcfg ▸ htok)]
      rfl
    · rw [execSet_of_token htok, execSet_of_token (hcfg ▸ htok)]
      exact applySymbol_forgetLines .set sym s
  | reserved10 => rfl
  | reserved11 => rfl

/-- Levels forgotten before a step or after it: the two steps take the same branch. -/
theorem step_forgetLines (s : State) :
    mapNext State.forgetLines (step s.forgetLines) = mapNext State.forgetLines (step s) := by
  have hctrl : s.forgetLines.ctrl = s.ctrl := rfl
  have hnext : s.forgetLines.nextRequest = s.nextRequest := rfl
  rcases hc : s.ctrl with _ | ⟨o, sym⟩
  · rcases hn : s.nextRequest with _ | ⟨k, q⟩
    · rw [step_of_idle hc hn, step_of_idle (hctrl.trans hc) (hnext.trans hn)]
      rfl
    · rw [step_of_request hc hn, step_of_request (hctrl.trans hc) (hnext.trans hn)]
      exact exec_forgetLines (decode q) (s.accept k)
  · rw [step_of_applying hc, step_of_applying (hctrl.trans hc)]
    exact applySymbol_forgetLines o sym s

/-- Settles O57: states that differ in the levels are one state once the levels are forgotten, and forgetting them before
the step changes nothing but them (`step_forgetLines`). -/
theorem lineLevelsAreNeverRead : Obligations.LineLevelsAreNeverRead := by
  unfold Obligations.LineLevelsAreNeverRead
  intro s l
  exact (step_forgetLines { s with lines := l }).symm.trans (step_forgetLines s)

end Sys2Proof.Machine
end

section
namespace Sys2Proof.Machine

/-! ## Response words and the host's surface (R51, R54, R78, R79) -/

/-- R51: the word is its four fields side by side. -/
theorem response_word_fields (r : Response) :
    r.word.getLsbD 7 = r.ok ∧ r.word.extractLsb' 5 2 = r.err.bits ∧ r.word.getLsbD 4 = r.valid ∧
      r.word.extractLsb' 0 4 = r.sym := by
  unfold Response.word
  refine ⟨?_, ?_, ?_, BitVec.extractLsb'_append_eq_right⟩
  · simp only [BitVec.getLsbD_append]
    simp
  · rw [BitVec.extractLsb'_append_eq_of_le (by decide), BitVec.extractLsb'_append_eq_of_le (by decide)]
    exact BitVec.extractLsb'_append_eq_right
  · simp only [BitVec.getLsbD_append]
    simp

/-- R54: the fields of a legal response agree with each other. -/
theorem legal_response_fields {w : Nat} {r : Response} (h : r.legal w) :
    (r.ok = true ↔ r.err.bits = 0b00#2) ∧ (r.valid = false → r.sym = 0#4) ∧ (r.err ≠ .busError → r.berr = 0) ∧
      r.berr < 2 ^ w := by
  rcases h with ⟨s, rfl⟩ | rfl | rfl | ⟨e, he, rfl⟩
  · exact ⟨by simp [Response.success, ErrCode.bits], nofun, fun _ => rfl, Nat.two_pow_pos w⟩
  · exact ⟨by decide, fun _ => rfl, fun _ => rfl, Nat.two_pow_pos w⟩
  · exact ⟨by decide, fun _ => rfl, fun _ => rfl, Nat.two_pow_pos w⟩
  · exact ⟨by simp [Response.busError, ErrCode.bits], fun _ => rfl, fun h => absurd rfl h, he⟩

/-- Settles O51: the layout (`response_word_fields`), the legal responses (`legal_response_fields`) and the words of R54. -/
theorem responseWords : Obligations.ResponseWords := by
  unfold Obligations.ResponseWords
  exact ⟨response_word_fields, fun _ _ => legal_response_fields, success_word, uninitialized_word, by decide,
    fun e => congrArg Prod.fst (busError_seen e)⟩

/-- A request issued comes last in its requester's list. -/
theorem getElem?_issueLast (q : Word) (k : Nat) (rs : List (List Word)) :
    (issueLast q k rs)[k]? = some (rs[k]?.getD [] ++ [q]) := by
  induction k generalizing rs with
  | zero => cases rs <;> rfl
  | succ k ih =>
    cases rs with
    | nil => exact ih []
    | cons p ps => exact ih ps

/-- Settles O52: the host read is the text of GET's response; the host write issues the token's SET word
(`getElem?_issueLast`), which decodes as the SET it encodes (`decode_encode_set`). -/
theorem hostSurface : Obligations.HostSurface := by
  unfold Obligations.HostSurface
  refine ⟨fun s => ?_, fun c _ => decode_encode_set false c, decode_encode_set true 0x00#8,
    fun s k token => getElem?_issueLast (tokenWord token) k s.requesters⟩
  rw [hostRead]
  cases s.dispValid with
  | true => exact ⟨fun _ => rfl, nofun⟩
  | false => exact ⟨nofun, fun _ => rfl⟩

end Sys2Proof.Machine
end

section
namespace Sys2Proof.Machine

/-! ## Requests and responses by requester (R34, R52) -/

/-- What requester `k` has in a list whose entries name their requesters, in order. -/
def taggedWith {α : Type} (k : Nat) (l : List (Nat × α)) : List α :=
  (l.filter (fun p => p.1 == k)).map Prod.snd

section
variable {α : Type} (k : Nat)

@[simp] theorem taggedWith_nil : taggedWith k ([] : List (Nat × α)) = [] := rfl

@[simp] theorem taggedWith_append (l l' : List (Nat × α)) :
    taggedWith k (l ++ l') = taggedWith k l ++ taggedWith k l' := by
  simp [taggedWith]

@[simp] theorem taggedWith_singleton (j : Nat) (x : α) : taggedWith k [(j, x)] = if j = k then [x] else [] := by
  by_cases hjk : j = k <;> simp [taggedWith, hjk]

theorem responsesTo_eq (s : State) : s.responsesTo k = taggedWith k s.responses := rfl

end

theorem takesUp_of_idle {s : State} (h : s.ctrl = .idle) : s.takesUp = s.nextRequest.toList := by
  rw [State.takesUp, h]

theorem takesUp_of_applying {s : State} {o : Origin} {sym : Symbol} (h : s.ctrl = .applying o sym) :
    s.takesUp = [] := by
  rw [State.takesUp, h]

/-- What a step takes off the port was first in its requester's list; every other list stays. -/
theorem requestsOf_step {s t : State} (hstep : step s = .next t) (k : Nat) :
    s.requestsOf k = taggedWith k s.takesUp ++ t.requestsOf k := by
  rcases hc : s.ctrl with _ | ⟨o, sym⟩
  · rw [takesUp_of_idle hc]
    rcases oneOperationAtATime.2 s t hc hstep with ⟨rfl, hn⟩ | ⟨j, q, hn, hrequesters, -⟩
    · rw [hn]
      rfl
    · obtain ⟨qs, hj⟩ := State.getElem?_of_nextRequest hn
      rw [hn, Option.toList_some, taggedWith_singleton]
      by_cases hjk : j = k
      · subst hjk
        simp [State.requestsOf, hrequesters, hj]
      · simp [State.requestsOf, hrequesters, hjk]
  · obtain ⟨hrequesters, -⟩ := oneOperationAtATime.1 s t o sym hc hstep
    simp [takesUp_of_applying hc, State.requestsOf, hrequesters]

/-! ## What a requester is owed (R52) -/

theorem owed_of_idle {s : State} (h : s.ctrl = .idle) (k : Nat) : s.owed k = 0 := by
  rw [State.owed, h]

theorem owed_of_applying_set {s : State} {sym : Symbol} (h : s.ctrl = .applying .set sym) (k : Nat) :
    s.owed k = if s.serving = k then 1 else 0 := by
  rw [State.owed, h]

theorem owed_of_applying_reset {s : State} {sym : Symbol} (h : s.ctrl = .applying .reset sym) (k : Nat) :
    s.owed k = 0 := by
  rw [State.owed, h]

/-- Each requester's account over a step: what it is owed grows by the request it had taken up and shrinks by the response
it got. -/
theorem owed_step {s t : State} (hstep : step s = .next t) :
    ∃ rs, t.responses = s.responses ++ rs ∧
      ∀ k, (taggedWith k s.takesUp).length + s.owed k = (taggedWith k rs).length + t.owed k := by
  rcases hc : s.ctrl with _ | ⟨o, sym⟩
  · rw [takesUp_of_idle hc]
    rcases oneOperationAtATime.2 s t hc hstep with
      ⟨rfl, hn⟩ | ⟨j, q, hn, -, hserving, ⟨hctrl, r, hresponses⟩ | ⟨sym, hctrl, hresponses⟩⟩ <;> rw [hn]
    · exact ⟨[], by simp⟩
    · refine ⟨[(j, r)], hresponses, fun k => ?_⟩
      rw [owed_of_idle hc, owed_of_idle hctrl]
      by_cases hjk : j = k <;> simp [hjk]
    · refine ⟨[], by simpa using hresponses, fun k => ?_⟩
      rw [owed_of_idle hc, owed_of_applying_set hctrl, hserving]
      by_cases hjk : j = k <;> simp [hjk]
  · rw [takesUp_of_applying hc]
    obtain ⟨-, -, hserving, ⟨hctrl, hresponses⟩ | ⟨hctrl, hreset, hset⟩⟩ :=
      oneOperationAtATime.1 s t o sym hc hstep
    · exact ⟨[], by simpa using hresponses, fun k => by simp [State.owed, hctrl, hserving]⟩
    · cases o with
      | set =>
        obtain ⟨r, hresponses⟩ := hset rfl
        refine ⟨[(s.serving, r)], hresponses, fun k => ?_⟩
        rw [owed_of_applying_set hc, owed_of_idle hctrl]
        by_cases hk : s.serving = k <;> simp [hk]
      | reset =>
        refine ⟨[], by simpa using hreset rfl, fun k => ?_⟩
        rw [owed_of_applying_reset hc, owed_of_idle hctrl]
        rfl

/-- Requester `k`'s account between two states. -/
def RequestsAnswered (k : Nat) (s t : State) : Prop :=
  ∃ (taken : List Word) (answered : List Response),
    s.requestsOf k = taken ++ t.requestsOf k ∧ t.responsesTo k = s.responsesTo k ++ answered ∧
    taken.length + s.owed k = answered.length + t.owed k

namespace RequestsAnswered
variable {k : Nat} {s t u : State}

theorem refl (k : Nat) (s : State) : RequestsAnswered k s s :=
  ⟨[], [], rfl, (List.append_nil _).symm, rfl⟩

theorem trans (hst : RequestsAnswered k s t) (htu : RequestsAnswered k t u) : RequestsAnswered k s u := by
  obtain ⟨taken, answered, hrequests, hresponses, hcount⟩ := hst
  obtain ⟨taken', answered', hrequests', hresponses', hcount'⟩ := htu
  refine ⟨taken ++ taken', answered ++ answered', ?_, ?_, ?_⟩
  · rw [hrequests, hrequests', List.append_assoc]
  · rw [hresponses', hresponses, List.append_assoc]
  · rw [List.length_append, List.length_append]
    omega

theorem of_step (hstep : step s = .next t) : RequestsAnswered k s t := by
  obtain ⟨rs, hresponses, hcount⟩ := owed_step hstep
  refine ⟨_, taggedWith k rs, requestsOf_step hstep k, ?_, hcount k⟩
  rw [responsesTo_eq, responsesTo_eq, hresponses, taggedWith_append]

end RequestsAnswered

/-- Settles O58: every step keeps each requester's account (`RequestsAnswered.of_step`), and accounts add up over a run. -/
theorem eachRequestIsAnsweredOnce : Obligations.EachRequestIsAnsweredOnce := by
  unfold Obligations.EachRequestIsAnsweredOnce
  intro n s t k
  exact run_induction (RequestsAnswered.refl k) (fun _ _ _ hstep hrun => (RequestsAnswered.of_step hstep).trans hrun) n s t

end Sys2Proof.Machine
end

section
namespace Sys2Proof.Machine

/-! ## The operations that requests are (R33, R34) -/

section
variable {strict : Bool} {k : Nat} {q : Word} {op : Operation}

/-- An operation that asks the bus takes the next answer. -/
theorem operationsOf_cons_of_applies {a : BusAnswer} (hop : Operation.ofInstr a (decode q) = some op)
    (happlies : op.applies strict = true) (reqs : List (Nat × Word)) (as : List BusAnswer) :
    operationsOf strict ((k, q) :: reqs) (a :: as) = (k, op) :: operationsOf strict reqs as := by
  simp [operationsOf, hop, happlies]

/-- Any other operation takes none. -/
theorem operationsOf_cons_of_not_applies {as : List BusAnswer}
    (hop : Operation.ofInstr (as.headD .ok) (decode q) = some op) (happlies : op.applies strict = false)
    (reqs : List (Nat × Word)) :
    operationsOf strict ((k, q) :: reqs) as = (k, op) :: operationsOf strict reqs as := by
  rw [operationsOf, hop]
  simp [happlies]

/-- An operation that asks the bus and has no answer yet is not among them. -/
theorem operationsOf_of_unanswered (hop : Operation.ofInstr .ok (decode q) = some op)
    (happlies : op.applies strict = true) (reqs : List (Nat × Word)) :
    operationsOf strict ((k, q) :: reqs) [] = [] := by
  simp [operationsOf, hop, happlies]

end

theorem applies_of_tokenSymbol {cfg : Config} {te : Bool} {ch : Byte} {sym : Symbol}
    (htok : tokenSymbol cfg te ch = some sym) (a : BusAnswer) : (Operation.set te ch a).applies cfg.strict = true := by
  rw [applies_set, htok, Option.isSome_some]

theorem not_applies_of_rejected {cfg : Config} {te : Bool} {ch : Byte}
    (htok : tokenSymbol cfg te ch = none) (a : BusAnswer) : (Operation.set te ch a).applies cfg.strict = false := by
  rw [applies_set, htok, Option.isSome_none]

theorem State.outstanding_of_idle {s : State} (h : s.ctrl = .idle) (reqs : List (Nat × Word)) :
    s.outstanding reqs ↔ reqs = [] := by
  rw [State.outstanding, h]

theorem State.outstanding_of_applying_set {s : State} {sym : Symbol} (h : s.ctrl = .applying .set sym)
    (reqs : List (Nat × Word)) : s.outstanding reqs ↔
      ∃ q te ch, reqs = [(s.serving, q)] ∧ decode q = .set te ch ∧ tokenSymbol s.cfg te ch = some sym := by
  rw [State.outstanding, h]

theorem State.not_outstanding_of_applying_reset {s : State} {sym : Symbol} (h : s.ctrl = .applying .reset sym)
    (reqs : List (Nat × Word)) : ¬ s.outstanding reqs := by
  rw [State.outstanding, h]
  exact id

/-! ## One step of a linearized run -/

/-- From `s` to `t` no request is completed: `reqs` are outstanding in `t`, and nothing that a claim reads has changed. -/
structure Waits (s t : State) (reqs : List (Nat × Word)) : Prop where
  outstanding : t.outstanding reqs
  applyLog    : t.applyLog = s.applyLog
  responses   : t.responses = s.responses
  displayed   : t.displayed = s.displayed

/-- From `s` to `t` requester k's request `q` is completed. It is the first operation of every list of requests that begins
with it, for the answers that the log then shows next; and the state and the response are those of the state machine. -/
def Completes (s t : State) (k : Nat) (q : Word) : Prop :=
  t.ctrl = .idle ∧ ∃ (entries : List ApplyEntry) (r : Response),
    t.applyLog = s.applyLog ++ entries ∧ t.responses = s.responses ++ [(k, r)] ∧
    ∀ (reqs : List (Nat × Word)) (as : List BusAnswer), ∃ op : Operation,
      operationsOf s.cfg.strict ((k, q) :: reqs) (entries.map ApplyEntry.answer ++ as) =
        (k, op) :: operationsOf s.cfg.strict reqs as ∧
      entries.length = [op].countP (Operation.applies s.cfg.strict) ∧
      stateMachine s.cfg.strict s.displayed op = (t.displayed, r.seen)

theorem Completes.outstanding {s t : State} {k : Nat} {q : Word} (h : Completes s t k q) : t.outstanding [] := by
  obtain ⟨hidle, -⟩ := h
  exact (State.outstanding_of_idle hidle []).2 rfl

section
variable {s : State} {q : Word} {te : Bool} {ch : Byte}

theorem completes_get (hidle : s.ctrl = .idle) (hq : decode q = .get) :
    Completes s (s.respond (getResponse s.dispValid s.dispSym)) s.serving q := by
  refine ⟨hidle, [], _, (List.append_nil _).symm, rfl, fun reqs as => ⟨.get, ?_, rfl, stateMachine_get s _⟩⟩
  exact operationsOf_cons_of_not_applies (congrArg (Operation.ofInstr _) hq) rfl reqs

theorem completes_rejected (hidle : s.ctrl = .idle) (hq : decode q = .set te ch)
    (htok : tokenSymbol s.cfg te ch = none) : Completes s (s.respond Response.invalidSymbol) s.serving q := by
  refine ⟨hidle, [], _, (List.append_nil _).symm, rfl, fun reqs as => ⟨.set te ch (as.headD .ok), ?_, ?_, ?_⟩⟩
  · exact operationsOf_cons_of_not_applies (congrArg (Operation.ofInstr _) hq) (not_applies_of_rejected htok _) reqs
  · simp [not_applies_of_rejected htok]
  · exact stateMachine_rejected s.displayed _ htok

/-- A SET completes when the entry of its APPLY is logged, and its operation has the answer of that entry. -/
theorem completes_of_answer {t : State} {sym : Symbol} {e : ApplyEntry} {r : Response} (hq : decode q = .set te ch)
    (htok : tokenSymbol s.cfg te ch = some sym) (hctrl : t.ctrl = .idle) (hlog : t.applyLog = s.applyLog ++ [e])
    (hresponses : t.responses = s.responses ++ [(s.serving, r)])
    (hrow : stateMachine s.cfg.strict s.displayed (.set te ch e.answer) = (t.displayed, r.seen)) :
    Completes s t s.serving q := by
  refine ⟨hctrl, [e], r, hlog, hresponses, fun reqs as => ⟨.set te ch e.answer, ?_, ?_, hrow⟩⟩
  · exact operationsOf_cons_of_applies (congrArg (Operation.ofInstr _) hq) (applies_of_tokenSymbol htok _) reqs as
  · simp [applies_of_tokenSymbol htok]

/-- The APPLY of a SET waits or completes the SET, by the bus's answer. -/
theorem showSymbol_set_progress {sym : Symbol} (m : Mask) (hq : decode q = .set te ch)
    (htok : tokenSymbol s.cfg te ch = some sym) :
    Waits s (showSymbol .set sym m s) [(s.serving, q)] ∨ Completes s (showSymbol .set sym m s) s.serving q := by
  rcases showSymbol_cases .set sym m s with ⟨-, hs⟩ | ⟨-, hs⟩ | ⟨e, -, -, hs⟩ <;> rw [hs]
  · exact .inl ⟨(State.outstanding_of_applying_set rfl _).2 ⟨q, te, ch, rfl, hq, htok⟩, rfl, rfl, rfl⟩
  · exact .inr (completes_of_answer hq htok rfl rfl rfl (stateMachine_ok _ htok))
  · exact .inr (completes_of_answer hq htok rfl rfl rfl (stateMachine_err _ e htok))

end

/-- A request performed by an idle core completes, or is a SET that waits. -/
theorem exec_progress {s t : State} {q : Word} (hidle : s.ctrl = .idle) (hexec : exec (decode q) s = .next t) :
    Waits s t [(s.serving, q)] ∨ Completes s t s.serving q := by
  rcases exec_next_cases hexec with ⟨hq, rfl⟩ | ⟨te, ch, hq, htok, rfl⟩ | ⟨te, ch, sym, m, hq, htok, -, rfl⟩
  · exact .inr (completes_get hidle hq)
  · exact .inr (completes_rejected hidle hq htok)
  · exact showSymbol_set_progress m hq htok

/-- Every step, from a state with no reset outstanding: the requests outstanding before it and the one it takes up wait, or
there is one and the step completes it. -/
theorem step_progress {s t : State} {before : List (Nat × Word)} (hout : s.outstanding before)
    (hstep : step s = .next t) :
    Waits s t (before ++ s.takesUp) ∨ ∃ k q, before ++ s.takesUp = [(k, q)] ∧ Completes s t k q := by
  rcases step_next_cases hstep with ⟨o, sym, m, hc, -, rfl⟩ | ⟨hc, hn, rfl⟩ | ⟨k, q, hc, hn, hexec⟩
  · rw [takesUp_of_applying hc, List.append_nil]
    cases o with
    | set =>
      obtain ⟨q, te, ch, rfl, hq, htok⟩ := (State.outstanding_of_applying_set hc before).1 hout
      exact (showSymbol_set_progress m hq htok).imp_right fun h => ⟨_, _, rfl, h⟩
    | reset => exact absurd hout (State.not_outstanding_of_applying_reset hc before)
  · rw [takesUp_of_idle hc, hn]
    exact .inl ⟨by simpa using hout, rfl, rfl, rfl⟩
  · obtain rfl := (State.outstanding_of_idle hc before).1 hout
    rw [takesUp_of_idle hc, hn]
    exact (exec_progress (s := s.accept k) hc hexec).imp (fun h => ⟨h.outstanding, h.applyLog, h.responses, h.displayed⟩)
      fun h => ⟨k, q, rfl, h⟩

/-! ## A whole run -/

/-- R33 (b): from `s` to `t` the requests `reqs`, but for one still outstanding in `t`, are performed one at a time, with the
answers that the log shows. -/
def Linearizes (s t : State) (reqs : List (Nat × Word)) : Prop :=
  ∃ (entries : List ApplyEntry) (rs : List (Nat × Response)) (ops : List (Nat × Operation)),
    t.applyLog = s.applyLog ++ entries ∧ t.responses = s.responses ++ rs ∧
    ops = operationsOf s.cfg.strict reqs (entries.map ApplyEntry.answer) ∧
    ops.length + (if t.busy then 1 else 0) = reqs.length ∧
    entries.length = (ops.map Prod.snd).countP (Operation.applies s.cfg.strict) ∧
    performAll s.cfg.strict s.displayed (ops.map Prod.snd) = (t.displayed, rs.map (fun p => p.2.seen)) ∧
    rs.map Prod.fst = ops.map Prod.fst

namespace Linearizes
variable {s t u : State} {reqs : List (Nat × Word)}

/-- Of the requests outstanding in a state none is performed yet. -/
theorem of_outstanding (hout : s.outstanding reqs) : Linearizes s s reqs := by
  have hnone : operationsOf s.cfg.strict reqs [] = [] ∧ (if s.busy then 1 else 0) = reqs.length := by
    rcases hc : s.ctrl with _ | ⟨_ | _, sym⟩
    · obtain rfl := (State.outstanding_of_idle hc reqs).1 hout
      rw [State.busy_of_idle hc]
      exact ⟨rfl, rfl⟩
    · obtain ⟨q, te, ch, rfl, hq, htok⟩ := (State.outstanding_of_applying_set hc reqs).1 hout
      rw [State.busy_of_applying hc]
      exact ⟨operationsOf_of_unanswered (congrArg _ hq) (applies_of_tokenSymbol htok .ok) [], rfl⟩
    · exact absurd hout (State.not_outstanding_of_applying_reset hc reqs)
  obtain ⟨hops, hcount⟩ := hnone
  exact ⟨[], [], [], (List.append_nil _).symm, (List.append_nil _).symm, hops.symm, by simpa using hcount, rfl, rfl, rfl⟩

theorem of_waits {outstanding : List (Nat × Word)} (hwait : Waits s t outstanding) (hcfg : t.cfg = s.cfg)
    (hrun : Linearizes t u reqs) : Linearizes s u reqs := by
  rw [Linearizes, hcfg, hwait.applyLog, hwait.responses, hwait.displayed] at hrun
  exact hrun

/-- A completed request is performed before those of the rest of the run. -/
theorem of_completes {k : Nat} {q : Word} (hdone : Completes s t k q) (hcfg : t.cfg = s.cfg)
    (hrun : Linearizes t u reqs) : Linearizes s u ((k, q) :: reqs) := by
  obtain ⟨-, es, r, hlog, hresponses, hfirst⟩ := hdone
  obtain ⟨es', rs', ops, hlog', hresponses', hops, hcount, hentries, hperform, htags⟩ := hrun
  obtain ⟨op, hop, hasked, hrow⟩ := hfirst reqs (es'.map ApplyEntry.answer)
  rw [hcfg] at hops hentries hperform
  refine ⟨es ++ es', (k, r) :: rs', (k, op) :: ops, ?_, ?_, ?_, ?_, ?_, ?_, ?_⟩
  · rw [hlog', hlog, List.append_assoc]
  · rw [hresponses', hresponses, List.append_assoc, List.singleton_append]
  · rw [List.map_append, hop, hops]
  · rw [List.length_cons, List.length_cons, ← hcount]
    omega
  · rw [List.length_append, hasked, hentries, ← List.countP_append]
    rfl
  · simp [performAll, hrow, hperform]
  · rw [List.map_cons, List.map_cons, htags]

end Linearizes

theorem requestsTaken_succ {s t : State} (n : Nat) (hstep : step s = .next t) :
    requestsTaken (n + 1) s = s.takesUp ++ requestsTaken n t := by
  rw [requestsTaken, hstep]

/-- A run of n + 1 steps is a step and a run of n steps. -/
theorem run_succ_cases {n : Nat} {s u : State} (h : Sys2Proof.core.run (n + 1) s = .next u) :
    ∃ t, step s = .next t ∧ Sys2Proof.core.run n t = .next u := by
  simp only [Host.Core.run] at h
  split at h
  · exact ⟨_, ‹_›, h⟩
  · exact nomatch h
  · exact nomatch h

theorem requestsOf_run {n : Nat} {s t : State} (hrun : Sys2Proof.core.run n s = .next t) (k : Nat) :
    s.requestsOf k = taggedWith k (requestsTaken n s) ++ t.requestsOf k := by
  induction n generalizing s with
  | zero =>
    obtain rfl := Host.Outcome.next.inj hrun
    rfl
  | succ n ih =>
    obtain ⟨u, hstep, hrest⟩ := run_succ_cases hrun
    rw [requestsTaken_succ n hstep, taggedWith_append, List.append_assoc, ← ih hrest]
    exact requestsOf_step hstep k

/-- Induction over the run: its first step completes a request, which is then performed first, or leaves the requests
waiting for the rest of the run. -/
theorem linearizes_run {n : Nat} {s t : State} {before : List (Nat × Word)} (hout : s.outstanding before)
    (hrun : Sys2Proof.core.run n s = .next t) : Linearizes s t (before ++ requestsTaken n s) := by
  induction n generalizing s before with
  | zero =>
    obtain rfl := Host.Outcome.next.inj hrun
    rw [requestsTaken, List.append_nil]
    exact Linearizes.of_outstanding hout
  | succ n ih =>
    obtain ⟨u, hstep, hrest⟩ := run_succ_cases hrun
    obtain ⟨hcfg, -⟩ := step_effect hstep
    rw [requestsTaken_succ n hstep, ← List.append_assoc]
    rcases step_progress hout hstep with hwait | ⟨k, q, hreqs, hdone⟩
    · exact Linearizes.of_waits hwait hcfg (ih hwait.outstanding hrest)
    · rw [hreqs]
      exact Linearizes.of_completes hdone hcfg (ih hdone.outstanding hrest)

/-- Settles O54: the port loses the requests taken up, each requester's in its order (`requestsOf_run`), and they are
performed one at a time (`linearizes_run`). -/
theorem runsLinearize : Obligations.RunsLinearize := by
  unfold Obligations.RunsLinearize
  exact fun n s t before hout hrun => ⟨requestsOf_run hrun, linearizes_run hout hrun⟩

end Sys2Proof.Machine
end
